-- ==== Sys2Proof/Word.lean ====
section
/-! DEFINITION. The word types of the block (spec 00_scope.md R9, R11): the byte of the link and of the three
byte-addressed spaces, and the 32-bit millisecond value that every event carries. Quantities the spec holds as
fixed-point numbers are raw integers (`Int`), see Machine/Fixed.lean. -/

namespace Sys2Proof

/-- R9: a byte (`u8`). -/
abbrev Byte := BitVec 8

/-- R9, R11: a `u32`, used for `now`, for every timestamp and for every interval in milliseconds. -/
abbrev Time := BitVec 32

end Sys2Proof
end

