-- ==== Sys2Proof/Machine/Memory.lean ====
section
/-! DEFINITION. The byte-addressed spaces of the block (20_memory.md R60): the frame buffer, the function table and the
timer bytes. Each is a list of (address, byte) cells in one canonical form: addresses strictly rising and no cell equal to
what an unlisted address reads as, so that equal memories are equal data. Which addresses a space has is the business of
its users (Machine/Ops.lean). -/

namespace Sys2Proof.Machine

/-- A byte-addressed space. -/
abbrev Memory := List Host.Cell

/-- 10 R23, R27, R28: what every byte of the three spaces holds after reset, and so what an unlisted address reads as. -/
def memUnlisted : Byte := 0x00#8

/-- 00 R10: read one byte. -/
def memRead : Memory → Nat → Byte
  | [], _ => memUnlisted
  | (x, v) :: m, a => if x = a then v else memRead m a

/-- 00 R10: write one byte, keeping the canonical form. -/
def memWrite : Memory → Nat → Byte → Memory
  | [], a, b => if b = memUnlisted then [] else [(a, b)]
  | (x, v) :: m, a, b =>
    if a < x then (if b = memUnlisted then (x, v) :: m else (a, b) :: (x, v) :: m)
    else if x = a then (if b = memUnlisted then m else (a, b) :: m)
    else (x, v) :: memWrite m a b

/-- The canonical form, for a memory whose addresses are all at least `lo`. -/
def memWfFrom (lo : Nat) : Memory → Bool
  | [] => true
  | (x, v) :: m => decide (lo ≤ x) && decide (v ≠ memUnlisted) && memWfFrom (x + 1) m

/-- The canonical form. -/
def Memory.wf (m : Memory) : Bool := memWfFrom 0 m

/-- Every listed address is below `n`. -/
def Memory.below (n : Nat) (m : Memory) : Bool := m.all fun c => decide (c.1 < n)

/-- Write bytes at rising addresses from `a` on. -/
def memWriteAll : Memory → Nat → List Byte → Memory
  | m, _, [] => m
  | m, a, b :: bs => memWriteAll (memWrite m a b) (a + 1) bs

/-- The `n` bytes from address `a` on. -/
def memReadAll (m : Memory) (a n : Nat) : List Byte := (List.range n).map fun k => memRead m (a + k)

/-- The bytes at the addresses below `n`, in canonical form: what a space of `n` bytes holds of `m`. -/
def memConform (n : Nat) (m : Memory) : Memory := memWriteAll [] 0 (memReadAll m 0 n)

end Sys2Proof.Machine
end

