-- ==== Sys2Proof/Machine/Store.lean ====
section
/-! DEFINITION. The StateStore `S.st` (10_state.md R24 to R30) as plain data, with its reset value (R40). It stands before
Config.lean because the configuration names functions of the Store (`can_send`, `on_response`). -/

namespace Sys2Proof.Machine

/-- R24: `power`, in index order. -/
inductive Power where
  | off | on
  deriving DecidableEq, Repr, Inhabited

/-- R24: `mode`, in index order. -/
inductive Mode where
  | heat | dry | cool | fan | auto
  deriving DecidableEq, Repr, Inhabited

/-- R24: DeviceSettings. Fx quantities are raw integers. -/
structure Settings where
  power       : Power
  mode        : Mode
  temperature : Int
  fan         : Fin 6
  vane        : Fin 7
  wideVane    : Fin 7
  deriving DecidableEq, Repr, Inhabited

/-- R25: the wanted DeviceSettings, each field optional (00 R14). -/
structure Wanted where
  power       : Option Power
  mode        : Option Mode
  temperature : Option Int
  fan         : Option (Fin 6)
  vane        : Option (Fin 7)
  wideVane    : Option (Fin 7)
  deriving DecidableEq, Repr, Inhabited

/-- R26: DeviceStatus. -/
structure Status where
  operating           : Bool
  compressorFrequency : Int
  inputPower          : Int
  kwh                 : Int
  runtimeHours        : Int
  roomTemperature     : Int
  deriving DecidableEq, Repr, Inhabited

/-- R24 to R30: the StateStore. -/
structure Store where
  cur          : Settings
  want         : Wanted
  status       : Status
  timerRaw     : Memory
  func         : Memory
  lastToggleAt : Time
  connected    : Bool
  firstRun     : Bool
  extTempMode  : Bool
  haveRoomTemp : Bool
  deriving DecidableEq, Repr, Inhabited

/-- R27, R28: how many bytes the two indexed spaces of the Store have. -/
abbrev timerBytes : Nat := 5
abbrev funcLen : Nat := 30
/-- R28: a half of the function table. -/
abbrev funcHalf : Nat := 15

/-- R25: no local intent. -/
def wantedNone : Wanted := ⟨none, none, none, none, none, none⟩

/-- R40, 70 R300: the Store after RESET. -/
def storeReset : Store where
  cur := ⟨.off, .heat, 0, 0, 0, 0⟩
  want := wantedNone
  status := ⟨false, 0, 0, 0, 0, 0⟩
  timerRaw := []
  func := []
  lastToggleAt := 0#32
  connected := false
  firstRun := true
  extTempMode := false
  haveRoomTemp := false

end Sys2Proof.Machine
end

