-- ==== Sys2Proof/Config.lean ====
section
/-! DEFINITION. The configuration `CFG` (00_scope.md R7), a record that is fixed while the block runs (20 R72), and the free
values of the spec: constants with no body, so that no proof can see what they are. `CFG` stands in State as a read-only
field (log 1), so a statement about every state is one about every configuration. Its well-formedness (R8) is in
Machine/CfgCheck.lean, the spec's defaults and CFG_REF in Machine/Defaults.lean. -/

namespace Sys2Proof

open Sys2Proof.Machine (Store)

/-- 92 D23: `can_send`, a pure predicate of the Store. `always` is the default; `whenConnected` is the one other the spec
names (30 R30, 95 S10); `impl n` is any predicate at all (`Config.canSendImpl n`, log 4). -/
inductive CanSend where
  | always
  | whenConnected
  | impl (n : Nat)
  deriving DecidableEq, Repr

/-- 92 D23: `on_response`, a Store transformer. `identity` is the default; `impl n` is any at all
(`Config.onResponseImpl n`, log 4). -/
inductive OnResponse where
  | identity
  | impl (n : Nat)
  deriving DecidableEq, Repr

/-- R7, 10 R32: the static fields of an InfoRequest. -/
structure ReqCfg where
  code          : Byte
  minIntervalMs : Time
  softTimeoutMs : Time
  maxFailures   : BitVec 8
  canSend       : CanSend
  onResponse    : OnResponse
  deriving DecidableEq, Repr

/-- 44 R242: which variant of the PID runs. -/
inductive PidVariant where
  | fixedDiscrete | gradient
  deriving DecidableEq, Repr

/-- 30 R92: the wire codes of each enumeration, in index order. -/
structure EnumTables where
  power    : List Byte
  mode     : List Byte
  fan      : List Byte
  vane     : List Byte
  wideVane : List Byte
  deriving DecidableEq, Repr

/-- 41 R141: the payload map. -/
structure PayloadMap where
  setMinLen     : Nat
  setPower      : Nat
  setMode       : Nat
  setIseeFold   : Bool
  setTemp       : Nat
  setFan        : Nat
  setVane       : Nat
  setWvane      : Nat
  setTempExt    : Nat
  rtMinLen      : Nat
  rtCode        : Nat
  rtExt         : Nat
  rtRuntime     : Nat
  rtRuntimeDiv  : Nat
  tmMinLen      : Nat
  tmFirst       : Nat
  staMinLen     : Nat
  staFreq       : Nat
  staOperating  : Nat
  staPower      : Nat
  staKwh        : Nat
  staKwhDiv     : Nat
  fnMinLen      : Nat
  fnFirst       : Nat
  roomTempTable : List Int
  tempTable     : List Int
  deriving DecidableEq, Repr

/-- R7: the parameters of the block. Fx parameters are raw integers. The values the document fixes and the rules write as
literals (START_BYTE, CHK_BASE, HEADER_LEN, the commands, SENTINEL_CODE, FUNC_LEN) are no fields (log 18); KP_FLOOR is
KP_MIN (92 D30). -/
structure Config where
  bufCap           : Nat
  req              : List ReqCfg
  nw               : Nat
  scale            : Nat
  eps              : Int
  hystOnThr        : Int
  hystOffThr       : Int
  toggleMinMs      : Time
  dtMinMs          : Time
  dtMaxMs          : Time
  pidVariant       : PidVariant
  kpInit           : Int
  kiInit           : Int
  kdInit           : Int
  kpMin            : Int
  kpMax            : Int
  kiMin            : Int
  kiMax            : Int
  kdMin            : Int
  kdMax            : Int
  imaxInit         : Int
  imaxFloor        : Int
  kpShrink         : Int
  imaxShrink       : Int
  repeatDisableMin : Nat
  outputMin        : Int
  outputMax        : Int
  underCap         : Int
  overCap          : Int
  adaptIntervalMs  : Time
  graceMs          : Time
  plantSens        : Int
  lrKp             : Int
  lrKi             : Int
  lrKd             : Int
  smoothAlpha      : Int
  relCap           : Int
  pmap             : PayloadMap
  enums            : EnumTables
  deriving DecidableEq, Repr

/-- R7, 92 D30: KP_FLOOR = KP_MIN. -/
def Config.kpFloor (c : Config) : Int := c.kpMin

/-! ### Free values -/

/-- 92 D23: the predicate that `CanSend.impl n` names. -/
opaque Config.canSendImpl : Nat → Store → Bool

/-- 92 D23: the transformer that `OnResponse.impl n` names. -/
opaque Config.onResponseImpl : Nat → Store → Store

/-- The byte a rule finds where the payload map names a data index that the frame does not have (20 R62 gives none);
the first argument is State's counter, so that each frame's is its own (log 9). -/
opaque Config.freeByte : Nat → Nat → Byte

/-- Entry 0 of a lookup table that has no entry (30 R91 gives none), in degrees (log 10). -/
opaque Config.freeTableEntry : Nat → Int

/-- `fx(n, d)` for a divisor that is 0, which 00 R12 does not give (log 10). -/
opaque Config.freeQuotient : Int → Int

/-- The Fx value of a 32-bit operand that has no place in `NW` bits, which 30 R95 does not give; a function of `NW` and the
operand (log 11). -/
opaque Config.freeOperand : Nat → BitVec 32 → Int

end Sys2Proof
end

