-- ==== Sys2Proof/Machine/Defaults.lean ====
section
/-! DEFINITION. The spec's default values of the configuration (00 R7, 41 R141, 30 R91, R92), most of which the spec marks as
general knowledge, not in its source (93 Part 2, log 20), and the reference configuration CFG_REF of 95_test_vectors.md,
which gives the open parameters the numbers of the spec's vectors (log 2). -/

namespace Sys2Proof.Machine

/-- 30 R92: the default wire codes. -/
def enumDefault : EnumTables where
  power := [0x00#8, 0x01#8]
  mode := [0x01#8, 0x02#8, 0x03#8, 0x07#8, 0x08#8]
  fan := [0x00#8, 0x01#8, 0x02#8, 0x03#8, 0x05#8, 0x06#8]
  vane := [0x00#8, 0x01#8, 0x02#8, 0x03#8, 0x04#8, 0x05#8, 0x07#8]
  wideVane := [0x01#8, 0x02#8, 0x03#8, 0x04#8, 0x05#8, 0x08#8, 0x0C#8]

/-- 30 R91: `ROOM_TEMP_TABLE[c] = 10 + c`, 32 entries. -/
def roomTempTableDefault : List Int := (List.range 32).map fun c => 10 + (c : Int)

/-- 30 R91: `TEMP_TABLE[c] = 31 - c`, 16 entries. -/
def tempTableDefault : List Int := (List.range 16).map fun c => 31 - (c : Int)

/-- 41 R141: the default payload map. -/
def pmapDefault : PayloadMap where
  setMinLen := 11
  setPower := 3
  setMode := 4
  setIseeFold := true
  setTemp := 5
  setFan := 6
  setVane := 7
  setWvane := 10
  setTempExt := 11
  rtMinLen := 4
  rtCode := 3
  rtExt := 6
  rtRuntime := 11
  rtRuntimeDiv := 60
  tmMinLen := 8
  tmFirst := 3
  staMinLen := 5
  staFreq := 3
  staOperating := 4
  staPower := 5
  staKwh := 7
  staKwhDiv := 10
  fnMinLen := 16
  fnFirst := 1
  roomTempTable := roomTempTableDefault
  tempTable := tempTableDefault

/-- 95 section 0: a request of the reference list. -/
def reqRef (code : Byte) : ReqCfg := ⟨code, 0#32, 500#32, 2#8, .always, .identity⟩

/-- 95 section 0: the reference configuration CFG_REF; the parameters it does not list have the defaults of 00 R7. -/
def configRef : Config where
  bufCap := 22
  req := [reqRef 0x02#8, reqRef 0x03#8, reqRef 0x06#8]
  nw := 64
  scale := 65536
  eps := 655
  hystOnThr := 32768
  hystOffThr := 32768
  toggleMinMs := 60000#32
  dtMinMs := 10#32
  dtMaxMs := 1000#32
  pidVariant := .gradient
  kpInit := 131072
  kiInit := 8192
  kdInit := 32768
  kpMin := 32768
  kpMax := 524288
  kiMin := 0
  kiMax := 65536
  kdMin := 0
  kdMax := 262144
  imaxInit := 655360
  imaxFloor := 131072
  kpShrink := 61440
  imaxShrink := 57344
  repeatDisableMin := 2
  outputMin := 1048576
  outputMax := 2031616
  underCap := 65536
  overCap := 131072
  adaptIntervalMs := 15000#32
  graceMs := 300000#32
  plantSens := 65536
  lrKp := 4096
  lrKi := 1024
  lrKd := 1024
  smoothAlpha := 16384
  relCap := 6553
  pmap := pmapDefault
  enums := enumDefault

end Sys2Proof.Machine
end

