-- ==== Sys2Proof/Machine/Fixed.lean ====
section
/-! DEFINITION. Fixed-point arithmetic on raw integers (00_scope.md R12), the tolerance of equality (R13), elapsed time
(R11) and the clamp of R9. Every result is computed in unbounded integers and brought back to `NW` bits by `sat`. -/

namespace Sys2Proof.Machine

/-- R12: rounding toward minus infinity. -/
def floorDiv (a b : Int) : Int := Int.fdiv a b

/-- R9: `max(lo, min(x, hi))`. -/
def clamp (x lo hi : Int) : Int := max lo (min x hi)

/-- R9, on naturals. -/
def clampNat (x lo hi : Nat) : Nat := max lo (min x hi)

/-- R12: the least and the greatest raw value of `NW` bits. -/
def fxMin (c : Config) : Int := -(Int.ofNat (Nat.pow 2 (c.nw - 1)))
def fxMax (c : Config) : Int := Int.ofNat (Nat.pow 2 (c.nw - 1)) - 1

/-- R12: the raw value is one of `NW` bits. -/
def fxInRange (c : Config) (z : Int) : Bool := decide (fxMin c ≤ z) && decide (z ≤ fxMax c)

/-- R12: saturation to the Fx range. -/
def sat (c : Config) (z : Int) : Int := clamp z (fxMin c) (fxMax c)

/-- R12: `SCALE` as an integer. -/
def scaleInt (c : Config) : Int := Int.ofNat c.scale

/-- R12: the raw value of the rational `n/d`, for `d > 0`; the spec gives no value for `d = 0` (log 10). -/
def fx (c : Config) (n : Int) (d : Nat) : Int :=
  if d = 0 then Config.freeQuotient n else floorDiv (n * scaleInt c) (Int.ofNat d)

def fxAdd (c : Config) (a b : Int) : Int := sat c (a + b)
def fxSub (c : Config) (a b : Int) : Int := sat c (a - b)
def fxMul (c : Config) (a b : Int) : Int := sat c (floorDiv (a * b) (scaleInt c))
/-- R12; no rule of the spec divides by an Fx value. -/
def fxDiv (c : Config) (a b : Int) : Int := sat c (floorDiv (a * scaleInt c) b)
def fxAbs (c : Config) (a : Int) : Int := sat c (Int.ofNat a.natAbs)

/-- R12: `chk`, the value with its overflow mark. -/
def chk (c : Config) (z : Int) : Int × Bool := (z, !fxInRange c z)

/-- R13: equal within `EPS`, computed without overflow. -/
def near (c : Config) (a b : Int) : Bool := decide (Int.ofNat (a - b).natAbs ≤ c.eps)

/-- R11: elapsed time, `(now - before) mod 2^32`. -/
abbrev el (now before : Time) : Nat := (now - before).toNat

/-- 44 R241: the adjusted range of a target and a direction, (minimum, maximum). -/
def adjustedRange (c : Config) (heating : Bool) (target : Int) : Int × Int :=
  let lo := if heating then fxSub c target c.underCap else fxSub c target c.overCap
  let hi := if heating then fxAdd c target c.overCap else fxAdd c target c.underCap
  (clamp lo c.outputMin c.outputMax, clamp hi c.outputMin c.outputMax)

/-- The midpoint of a range, `floor((lo + hi) / 2)` (10 R35, 44 R255). -/
def midOf (lo hi : Int) : Int := floorDiv (lo + hi) 2

end Sys2Proof.Machine
end

