-- ==== Sys2Proof/Machine/Parts.lean ====
section
/-! DEFINITION. The parts of the state record `S` beside the Store (10_state.md R20): the decoder, the request table, the
pending timers and the control loop, each with its reset value (R40, 70 R300); and the output events (60 R292). -/

namespace Sys2Proof.Machine

/-- R21: the decoder's three states. -/
inductive Fsm where
  | seeking | readingHeader | readingBody
  deriving DecidableEq, Repr

/-- R21, R23: the FrameDecoder. -/
structure Decoder where
  fsm   : Fsm
  count : Nat
  len   : Byte
  buf   : Memory
  deriving DecidableEq, Repr

/-- R32: the mutable fields of a request. -/
structure ReqState where
  disabled   : Bool
  awaiting   : Bool
  failures   : BitVec 8
  lastSentAt : Time
  deriving DecidableEq, Repr

/-- R33: a pending timer callback. -/
structure Timer where
  code    : Byte
  armedAt : Time
  delayMs : Time
  deriving DecidableEq, Repr

/-- R35 to R39: the AdaptiveControlLoop. -/
structure Loop where
  active         : Bool
  heating        : Bool
  target         : Int
  adjustedMin    : Int
  adjustedMax    : Int
  kp             : Int
  ki             : Int
  kd             : Int
  integralMax    : Int
  integral       : Int
  prevError      : Int
  lastError      : Int
  lastDerivative : Int
  lastOutput     : Int
  corrected      : Int
  disableCount   : BitVec 8
  sKp            : Int
  sKi            : Int
  sKd            : Int
  lastTickAt     : Time
  restartAt      : Time
  lastAdaptAt    : Time
  deriving DecidableEq, Repr

/-- 43 R210: what the gate answers. -/
inductive GateAnswer where
  | noOp | turnOn | turnOff
  deriving DecidableEq, Repr

/-- 60 R270: the seven errors. -/
inductive ErrKind where
  | badChecksum | oversize | overflow | nonResponse | invalidSymbol | numericFault | transportError
  deriving DecidableEq, Repr

/-- 60 R270: the code of an error. -/
def ErrKind.code : ErrKind → Nat
  | .badChecksum => 1
  | .oversize => 2
  | .overflow => 3
  | .nonResponse => 4
  | .invalidSymbol => 5
  | .numericFault => 6
  | .transportError => 7

/-- 60 R292: the thirteen output events. -/
inductive OutEvent where
  | frameAccepted (cmd len : Byte)
  | settingsChanged
  | statusChanged
  /-- `field` 0 to 5 (60 R275); `value` is an index or an Fx raw value. -/
  | setterResult (field : Nat) (value : Int)
  | txRequest (code : Byte)
  | armTimer (code : Byte) (delayMs : Time)
  | cycleDone
  | respSeen (code : Byte)
  | turnOn
  | turnOff
  | toggleDeferred (g : GateAnswer)
  | saveTarget (t : Int)
  | err (code info : Nat)
  deriving DecidableEq, Repr

/-- R40: the decoder after RESET. -/
def decoderReset : Decoder := ⟨.seeking, 0, 0x00#8, []⟩

/-- R40: a request after RESET. -/
def reqReset : ReqState := ⟨false, false, 0x00#8, 0#32⟩

/-- R40, R35: the target after RESET. -/
def targetReset (c : Config) : Int := midOf c.outputMin c.outputMax

/-- R40, 70 R300: the loop after RESET. 44 R243 says that reset has the effect of a restart at time 0, by which `prev_error`
would be the target; R40, R300 and 92 D39 give 0, which is what stands here (DEDUCED, log 26). -/
def loopReset (c : Config) : Loop where
  active := false
  heating := true
  target := targetReset c
  adjustedMin := (adjustedRange c true (targetReset c)).1
  adjustedMax := (adjustedRange c true (targetReset c)).2
  kp := c.kpInit
  ki := c.kiInit
  kd := c.kdInit
  integralMax := c.imaxInit
  integral := 0
  prevError := 0
  lastError := 0
  lastDerivative := 0
  lastOutput := 0
  corrected := targetReset c
  disableCount := 0x00#8
  sKp := 0
  sKi := 0
  sKd := 0
  lastTickAt := 0#32
  restartAt := 0#32
  lastAdaptAt := 0#32

end Sys2Proof.Machine
end

