-- ==== Sys2Proof/Syntax.lean ====
section
/-! DEFINITION. The operations of the block (00_scope.md R2): one constructor for each row of spec/opcode_table.json.
A frame constructor carries the parts of the frame that its row does not fix and the time of the byte that completed
it; an event constructor carries its operand and its `now` (30_encoding.md R95). -/

namespace Sys2Proof

/-- The free parts of a frame (30 R81): the two fixed protocol bytes, which nothing checks (R82), and the data bytes
`data[0 .. L-1]`, the subtype of a 0x62 frame among them. The start byte, the command, the length and the checksum
are the encoder's. -/
structure Frame where
  fixedA : Byte
  fixedB : Byte
  data   : List Byte
  deriving DecidableEq, Repr

/-- R2, R87, R95: every operation. -/
inductive Instr where
  /-- 41 R144, command 0x61: update acknowledged. -/
  | fAck (f : Frame) (now : Time)
  /-- 41 R146, command 0x62, subtype 0x02: settings snapshot. -/
  | fSettings (f : Frame) (now : Time)
  /-- 41 R148, command 0x62, subtype 0x03: room temperature and runtime. -/
  | fRoomtemp (f : Frame) (now : Time)
  /-- 41 R150, command 0x62, subtype 0x05: timers. -/
  | fTimers (f : Frame) (now : Time)
  /-- 41 R152, command 0x62, subtype 0x06: status. -/
  | fStatus (f : Frame) (now : Time)
  /-- 41 R154, command 0x62, subtype 0x09: standby, reserved. -/
  | fStandby (f : Frame) (now : Time)
  /-- 41 R155, command 0x62, subtype 0x20: function table, first half. -/
  | fFuncLo (f : Frame) (now : Time)
  /-- 41 R156, command 0x62, subtype 0x22: function table, second half. -/
  | fFuncHi (f : Frame) (now : Time)
  /-- 41 R157, command 0x7A: connect acknowledged. -/
  | fConnA (f : Frame) (now : Time)
  /-- 41 R157, command 0x7B: connect acknowledged. -/
  | fConnB (f : Frame) (now : Time)
  /-- 30 R96, op 0x0. -/
  | nop (now : Time)
  /-- 40 R110, op 0x1; `b` is `arg[7:0]`. -/
  | rxByte (b : Byte) (now : Time)
  /-- 42 R190, op 0x2. -/
  | startCycle (now : Time)
  /-- 42 R186 and R187, op 0x3; `code` is `arg[7:0]`. -/
  | timeout (code : Byte) (now : Time)
  /-- 44 R230, op 0x4. -/
  | tick (now : Time)
  /-- 44 R245, op 0x5; `arg` is an Fx raw value of 32 bits. -/
  | setTarget (arg : BitVec 32) (now : Time)
  /-- 41 R160, op 0x6; `sym` is `arg[7:0]`. -/
  | setPower (sym : Byte) (now : Time)
  /-- 41 R161, op 0x7. -/
  | setMode (sym : Byte) (now : Time)
  /-- 41 R162, op 0x8; `arg` as for `setTarget`. -/
  | setTemperature (arg : BitVec 32) (now : Time)
  /-- 41 R163, op 0x9. -/
  | setFan (sym : Byte) (now : Time)
  /-- 41 R164, op 0xA. -/
  | setVane (sym : Byte) (now : Time)
  /-- 41 R165, op 0xB. -/
  | setWidevane (sym : Byte) (now : Time)
  /-- 41 R167, op 0xC. -/
  | linkDown (now : Time)
  /-- 30 R96, op 0xD, reserved. -/
  | reservedD (now : Time)
  /-- 30 R96, op 0xE, reserved. -/
  | reservedE (now : Time)
  /-- 30 R96, op 0xF, reserved. -/
  | reservedF (now : Time)
  /-- 70 R300: the RESET pin, which has no operand and no `now`. -/
  | reset
  deriving DecidableEq, Repr

/-- 60 R291: what the platform presents at the block's ports, as bits. An event is the triple of 30 R95 in one
68-bit word: `op` in bits 3..0 (where spec/opcode_table.json numbers it), `arg` in bits 35..4, `now` in bits 67..36.
The packing is the model's (DESIGN CHOICE, log 5). -/
inductive Input where
  | resetPin
  | event (w : BitVec 68)
  deriving DecidableEq, Repr

end Sys2Proof
end

