-- ==== Sys2Proof/Machine/State.lean ====
section
/-! DEFINITION. The state of the model: the record `S` of 10_state.md R20 (`dec`, `st`, `sch`, `timers`, `loop`), and beside
it what a step of the model needs and the spec keeps apart from the state: the configuration, the inputs still to come,
the output trace, and the model's own counter of free values. The reasons a step can stop. The state after reset. -/

namespace Sys2Proof.Machine

/-- Plain data. -/
structure State where
  /-- 00 R7: the configuration in force; only RESET writes it (20 R72, log 1). -/
  cfg     : Config
  /-- 70 R302: what the platform does to the configuration at each RESET to come, the next one first: `some c` replaces it,
  `none`, and a RESET after the last entry, keeps the present one (log 3). -/
  newCfg  : List (Option Config)
  /-- 10 R21, R23: `S.dec`. -/
  dec     : Decoder
  /-- 10 R24 to R30: `S.st`. -/
  st      : Store
  /-- 10 R31, R32: `S.sch.req`. -/
  sch     : List ReqState
  /-- 10 R33: `S.timers`, in arming order (log 17). -/
  timers  : List Timer
  /-- 10 R35 to R39: `S.loop`. -/
  loop    : Loop
  /-- 60 R292: the output trace, oldest event first (log 6). -/
  out     : List OutEvent
  /-- 60 R291: the inputs that the platform presents, one at a time, the next first (log 5). -/
  port    : List Input
  /-- The model's own: how many frames have drawn free bytes (log 9). -/
  freeCtr : Nat
  deriving DecidableEq, Repr

/-- Why the machine stops. -/
inductive Fault where
  /-- RX_BYTE would store a byte at an index that is not one of the BUF_CAP indices of the frame buffer (20 R60). Raised by
  `execRxByte`; safe: no state that a run reaches does it (10 R41(b), 40 R118). -/
  | bufferIndex (index : Nat)
  deriving DecidableEq, Repr

/-- Why the model gives no step. -/
inductive Refusal where
  /-- The host's: an instruction that has no meaning yet. No arm raises it. -/
  | notModelled (mnemonic : String)
  /-- 00 R8, 93 U4: the configuration is not well-formed. Raised by `step` before any event but RESET, and by `execReset`
  for the configuration that would come into force; safe. -/
  | illFormedConfig
  deriving DecidableEq, Repr

/-- 10 R40, 70 R300: the state right after a RESET under configuration `c`. -/
def State.resetOf (c : Config) : State where
  cfg := c
  newCfg := []
  dec := decoderReset
  st := storeReset
  sch := c.req.map fun _ => reqReset
  timers := []
  loop := loopReset c
  out := []
  port := []
  freeCtr := 0

/-- The machine right after reset, under the spec's reference configuration (log 2). -/
def State.reset : State := State.resetOf configRef

end Sys2Proof.Machine
end

