-- ==== Sys2Proof/Machine/Ops.lean ====
section
/-! DEFINITION. The named operations over the state: the output trace, raising an error, the frame buffer, the request table,
the pending timers. -/

namespace Sys2Proof.Machine

/-- 00 R10, 60 R292: append an output event. -/
def State.emit (s : State) (e : OutEvent) : State := { s with out := s.out ++ [e] }

/-- 60 R270, R281: raising an error is the block's "taking an exception": it emits ERR(code, info), saves nothing, changes no
mode and transfers control nowhere; the raising rule then makes its recovery. R282: there is no handler and nothing to
return from, so there is no operation beside it. -/
def State.raise (s : State) (e : ErrKind) (info : Nat) : State := s.emit (.err e.code info)

/-- 00 R10, 20 R60(a): `buf[i] <- v`. -/
def State.bufWrite (s : State) (i : Nat) (v : Byte) : State :=
  { s with dec := { s.dec with buf := memWrite s.dec.buf i v } }

/-- 40 R112, R115: store the byte at `count` and count it; none where `count` is no index of the frame buffer (20 R60). -/
def State.storeByte (s : State) (b : Byte) : Option State :=
  if s.dec.count < s.cfg.bufCap then
    some { s with dec := { s.dec with buf := memWrite s.dec.buf s.dec.count b, count := s.dec.count + 1 } }
  else none

/-- 40 R114, R116, R118: back to `Seeking` with `count = 0`; `len` and `buf` keep their values. -/
def State.seekAgain (s : State) : State := { s with dec := { s.dec with fsm := .seeking, count := 0 } }

/-- 20 R62: `data[i] = buf[5 + i]` for `i < L`. -/
def Decoder.payload (d : Decoder) : List Byte := memReadAll d.buf 5 d.len.toNat

/-- 42 R181, R185: the entry with a code; the codes of a well-formed configuration are distinct. -/
def findReq (c : Config) (code : Byte) : Option Nat := c.req.findIdx? fun r => decide (r.code = code)

/-- `req[i]` after `f`. -/
def State.updReq (s : State) (i : Nat) (f : ReqState → ReqState) : State := { s with sch := s.sch.modify i f }

/-- 10 R30: request `i` is in flight. -/
def State.awaitingAt (s : State) (i : Nat) : Bool :=
  match s.sch[i]? with
  | some r => r.awaiting
  | none => false

/-- 10 R33: arm a timer; the newest entry stands last. -/
def State.armTimer (s : State) (t : Timer) : State := { s with timers := s.timers ++ [t] }

/-- 42 R186, R187: remove the entry with this code that was armed first, if there is one (70 R303, log 7). -/
def State.dropTimer (s : State) (code : Byte) : State :=
  { s with timers := s.timers.eraseP fun t => decide (t.code = code) }

/-- 00 R7, 92 D23: the value of a request's `can_send`. -/
def canSendHolds (p : CanSend) (st : Store) : Bool :=
  match p with
  | .always => true
  | .whenConnected => st.connected
  | .impl n => Config.canSendImpl n st

/-- 00 R12, 20 R60: a Store of the block: every Fx value one of `NW` bits, the timer bytes and the function table at their own
addresses. A Store that is one already is left as it is. -/
def Store.conform (c : Config) (st : Store) : Store :=
  { st with
    cur := { st.cur with temperature := sat c st.cur.temperature }
    want := { st.want with temperature := st.want.temperature.map (sat c) }
    status := {
      operating := st.status.operating
      compressorFrequency := sat c st.status.compressorFrequency
      inputPower := sat c st.status.inputPower
      kwh := sat c st.status.kwh
      runtimeHours := sat c st.status.runtimeHours
      roomTemperature := sat c st.status.roomTemperature }
    timerRaw := memConform timerBytes st.timerRaw
    func := memConform funcLen st.func }

/-- 10 R30: the flags of the Store are written only by the rules that it names, and `mark_response_seen` is none of them (42 R185:
"Flags written: `awaiting`"): `st` with the flags of `old`. -/
def Store.keepFlags (old st : Store) : Store :=
  { st with
    connected := old.connected
    firstRun := old.firstRun
    extTempMode := old.extTempMode
    haveRoomTemp := old.haveRoomTemp }

/-- 00 R7, 92 D23: what a request's `on_response` makes of the Store. It is a function from Stores to Stores, so that what an
`impl` answers is a Store of the block, and it writes no flag (10 R30, R41 (e); log 4). -/
def onResponseOf (c : Config) (f : OnResponse) (st : Store) : Store :=
  match f with
  | .identity => st
  | .impl n => st.keepFlags ((Config.onResponseImpl n st).conform c)

end Sys2Proof.Machine
end

