-- ==== Sys2Proof/Machine/Operands.lean ====
section
/-! DEFINITION. The operand forms: an Fx operand of an event (30 R95), a symbol index (41 section 5), and what the payload
bytes of a frame assemble to (30 R90 to R93, 41 R141, R142, R147). -/

namespace Sys2Proof.Machine

/-- 30 R95: `arg` as an Fx raw value, sign-extended from 32 bits when `NW > 32`. An `arg` that is no value of `NW` bits
(`NW < 32` only) has no stated value: a free one, inside the Fx range (log 11). -/
def fxOperand (c : Config) (arg : BitVec 32) : Int :=
  if fxInRange c arg.toInt then arg.toInt else sat c (Config.freeOperand c.nw arg)

/-- 41 section 5, R160: a symbol index resolves when it is below the size of the enumeration, else it falls back to 0. -/
def resolveSym (n : Nat) (sym : Byte) : Nat := if sym.toNat < n then sym.toNat else 0

/-- 41 section 5: does it resolve. -/
def symResolves (n : Nat) (sym : Byte) : Bool := decide (sym.toNat < n)

/-- R24: the values of the enumerations by index, index 0 for an index outside. -/
def powerOfIdx (i : Nat) : Power := if i = 1 then .on else .off
def modeOfIdx (i : Nat) : Mode :=
  if i = 1 then .dry else if i = 2 then .cool else if i = 3 then .fan else if i = 4 then .auto else .heat
def fin6OfIdx (i : Nat) : Fin 6 := if h : i < 6 then ⟨i, h⟩ else 0
def fin7OfIdx (i : Nat) : Fin 7 := if h : i < 7 then ⟨i, h⟩ else 0

/-- R24: the index of a value. -/
def Power.idx : Power → Nat
  | .off => 0
  | .on => 1
def Mode.idx : Mode → Nat
  | .heat => 0
  | .dry => 1
  | .cool => 2
  | .fan => 3
  | .auto => 4

/-- 41 R140, 30 R92: the least index with this wire code among the `n` of the table, else 0. DESIGN CHOICE (log 25): 00 R8
checks no table length, and of a table with more or fewer entries than the enumeration the first `n` that it has count. -/
def decEnum (n : Nat) (table : List Byte) (code : Byte) : Nat :=
  match (table.take n).findIdx? fun c => decide (c = code) with
  | some i => i
  | none => 0

/-- 41 R140: `data[i]`. Where the payload map names an index the frame does not have, there is no byte (20 R62) and the
value is free; `n` is State's counter (log 9). -/
def dataAt (n : Nat) (data : List Byte) (i : Nat) : Byte := data.getD i (Config.freeByte n i)

/-- 30 R90: the signed offset encoding, `(b - 128) / 2` degrees. -/
def signedHalf (c : Config) (b : Byte) : Int := sat c (fx c ((b.toNat : Int) - 128) 2)

/-- 30 R91: an entry of a lookup table, entry 0 for a code outside it; a table with no entry has none to give (log 10). -/
def tableEntry (table : List Int) (code : Byte) (n : Nat) : Int :=
  table.getD code.toNat (table.getD 0 (Config.freeTableEntry n))

/-- 30 R91: the lookup-table encoding, in raw units. -/
def tableTemp (c : Config) (table : List Int) (code : Byte) (n : Nat) : Int := sat c (fx c (tableEntry table code n) 1)

/-- 30 R93: big-endian payload values. -/
def be16 (a b : Byte) : Nat := a.toNat * 256 + b.toNat
def be24 (a b c : Byte) : Nat := a.toNat * 65536 + b.toNat * 256 + c.toNat

/-- 30 R93: an unsigned payload value in raw units. -/
def fxUnsigned (c : Config) (v d : Nat) : Int := sat c (fx c (v : Int) d)

/-- 41 R147: the setpoint of a settings frame. -/
def settingsTemperature (c : Config) (n : Nat) (data : List Byte) : Int :=
  let i := c.pmap.setTempExt
  if i < data.length ∧ dataAt n data i ≠ 0x00#8 then signedHalf c (dataAt n data i)
  else tableTemp c c.pmap.tempTable (dataAt n data c.pmap.setTemp) n

/-- 41 R146: the mode code, folded when it is above 0x08. -/
def modeCode (c : Config) (n : Nat) (data : List Byte) : Byte :=
  let code := dataAt n data c.pmap.setMode
  if c.pmap.setIseeFold && decide (0x08 < code.toNat) then code - 0x08#8 else code

/-- 41 R146: the settings a settings frame carries. -/
def settingsOf (c : Config) (n : Nat) (data : List Byte) : Settings where
  power := powerOfIdx (decEnum 2 c.enums.power (dataAt n data c.pmap.setPower))
  mode := modeOfIdx (decEnum 5 c.enums.mode (modeCode c n data))
  temperature := settingsTemperature c n data
  fan := fin6OfIdx (decEnum 6 c.enums.fan (dataAt n data c.pmap.setFan))
  vane := fin7OfIdx (decEnum 7 c.enums.vane (dataAt n data c.pmap.setVane))
  wideVane := fin7OfIdx (decEnum 7 c.enums.wideVane (BitVec.ofNat 8 ((dataAt n data c.pmap.setWvane).toNat % 16)))

end Sys2Proof.Machine
end

