-- ==== Sys2Proof/Machine/Flags.lean ====
section
/-! DEFINITION. The one-bit state that frames and events write (10_state.md R30), the two equalities of snapshots (00 R13) and
the change events that rest on them (41 R158), and the write-difference mask (41 R166) with the other accessors that the
host reads (41 R159, R168). -/

namespace Sys2Proof.Machine

/-- 41 R157, R167: `connected`. -/
def State.setConnected (s : State) (b : Bool) : State := { s with st := { s.st with connected := b } }

/-- 00 R13: equality of DeviceSettings snapshots. -/
def settingsEqual (c : Config) (a b : Settings) : Bool :=
  decide (a.power = b.power) && decide (a.mode = b.mode) && near c a.temperature b.temperature &&
  decide (a.fan = b.fan) && decide (a.vane = b.vane) && decide (a.wideVane = b.wideVane)

/-- 00 R13: equality of DeviceStatus snapshots. -/
def statusEqual (c : Config) (a b : Status) : Bool :=
  decide (a.operating = b.operating) && near c a.compressorFrequency b.compressorFrequency &&
  near c a.inputPower b.inputPower && near c a.kwh b.kwh && near c a.runtimeHours b.runtimeHours &&
  near c a.roomTemperature b.roomTemperature

/-- 41 R158: one SETTINGS_CHANGED when the condition holds. -/
def State.notifySettings (s : State) (changed : Bool) : State := if changed then s.emit .settingsChanged else s

/-- 41 R158: STATUS_CHANGED when the status now is not equal to the status before the frame. -/
def State.notifyStatus (s : State) (old : Status) : State :=
  if statusEqual s.cfg old s.st.status then s else s.emit .statusChanged

/-- 41 R159: `get_wanted_or_current`, by field. -/
def Store.powerNow (st : Store) : Power := st.want.power.getD st.cur.power
def Store.modeNow (st : Store) : Mode := st.want.mode.getD st.cur.mode
def Store.temperatureNow (st : Store) : Int := st.want.temperature.getD st.cur.temperature
def Store.fanNow (st : Store) : Fin 6 := st.want.fan.getD st.cur.fan
def Store.vaneNow (st : Store) : Fin 7 := st.want.vane.getD st.cur.vane
def Store.wideVaneNow (st : Store) : Fin 7 := st.want.wideVane.getD st.cur.wideVane

/-- 41 R168: the derived values that the host publishes. -/
def Store.pubOn (st : Store) : Bool := decide (st.powerNow = .on)
def Store.pubTemperature (st : Store) : Int := st.temperatureNow

/-- 41 R166: a wanted value that is there and is not the current one. -/
def differsFrom {α : Type} [DecidableEq α] (want : Option α) (cur : α) : Bool :=
  match want with
  | none => false
  | some v => decide (v ≠ cur)

/-- 41 R166: the temperature differs when it is not `near`. -/
def differsTemp (c : Config) (want : Option Int) (cur : Int) : Bool :=
  match want with
  | none => false
  | some v => !near c v cur

/-- 41 R166: the first mask, bits 0 to 4. -/
def mask1 (c : Config) (st : Store) : Byte :=
  0#3 ++ BitVec.ofBool (differsFrom st.want.vane st.cur.vane) ++ BitVec.ofBool (differsFrom st.want.fan st.cur.fan) ++
  BitVec.ofBool (differsTemp c st.want.temperature st.cur.temperature) ++
  BitVec.ofBool (differsFrom st.want.mode st.cur.mode) ++ BitVec.ofBool (differsFrom st.want.power st.cur.power)

/-- 41 R166: the second mask, bit 0. -/
def mask2 (st : Store) : Byte := 0#7 ++ BitVec.ofBool (differsFrom st.want.wideVane st.cur.wideVane)

/-- 41 R166: `diff_mask()`. -/
def diffMask (c : Config) (st : Store) : Byte × Byte := (mask1 c st, mask2 st)

end Sys2Proof.Machine
end

