-- ==== Sys2Proof/Machine/Pid.lean ====
section
/-! DEFINITION. The SelfTuningPID (44_pid.md): restart, shrink, evaluation, projection, gradient adaptation, and the event
SET_TARGET. The event TICK, which runs the gate first, is in Machine/Control.lean. -/

namespace Sys2Proof.Machine

/-- R241: `recompute_adjusted()`. -/
def recomputeAdjusted (c : Config) (l : Loop) : Loop :=
  { l with adjustedMin := (adjustedRange c l.heating l.target).1, adjustedMax := (adjustedRange c l.heating l.target).2 }

/-- R232: `update_direction(mode)`. -/
def updateDirection (c : Config) (mode : Mode) (l : Loop) : Loop :=
  match mode with
  | .heat => if l.heating then l else recomputeAdjusted c { l with heating := true }
  | .cool => if l.heating then recomputeAdjusted c { l with heating := false } else l
  | .dry | .fan | .auto => l

/-- R243: `on_flip(now)`, the restart. -/
def onFlip (c : Config) (room : Int) (now : Time) (l : Loop) : Loop :=
  { l with integral := 0, prevError := fxSub c l.target room, restartAt := now, lastAdaptAt := now }

/-- R244: the count of disable events, saturating at 255. -/
def countDisable (n : BitVec 8) : BitVec 8 := if n.toNat < 255 then n + 1#8 else n

/-- R244: `disable_event()`. -/
def disableEvent (c : Config) (l : Loop) : Loop :=
  let l := { l with disableCount := countDisable l.disableCount }
  if c.repeatDisableMin ≤ l.disableCount.toNat then
    { l with
      kp := max (fxMul c l.kp c.kpShrink) c.kpFloor
      integralMax := max (fxMul c l.integralMax c.imaxShrink) c.imaxFloor }
  else l

/-- R233: the time step in milliseconds. -/
def timeStep (c : Config) (now before : Time) : Nat :=
  clampNat (el now before) c.dtMinMs.toNat c.dtMaxMs.toNat

/-- R236: the integral after a step. -/
def nextIntegral (c : Config) (l : Loop) (e : Int) (dtMs : Nat) : Int :=
  clamp (fxAdd c l.integral (sat c (floorDiv (e * (dtMs : Int)) 1000))) (-l.integralMax) l.integralMax

/-- R237: the derivative. -/
def derivative (c : Config) (l : Loop) (e : Int) (dtMs : Nat) : Int :=
  sat c (floorDiv ((e - l.prevError) * 1000) (dtMs : Int))

/-- R237: the output, from the integral just updated. -/
def pidOutput (c : Config) (l : Loop) (e integral d : Int) : Int :=
  fxAdd c (fxAdd c (fxMul c l.kp e) (fxMul c l.ki integral)) (fxMul c l.kd d)

/-- R235 to R237: `evaluate(cur, dt_ms)`; what it returns is the `lastOutput` it leaves. -/
def evaluate (c : Config) (cur : Int) (dtMs : Nat) (l : Loop) : Loop :=
  let e := fxSub c l.target cur
  let i := nextIntegral c l e dtMs
  let d := derivative c l e dtMs
  { l with
    integral := i
    prevError := e
    lastError := e
    lastDerivative := d
    lastOutput := pidOutput c l e i d }

/-- R239: `project(out)`. -/
def project (c : Config) (l : Loop) (out : Int) : Int :=
  clamp (if l.heating then fxAdd c l.target out else fxSub c l.target out) l.adjustedMin l.adjustedMax

/-! ### Gradient adaptation -/

/-- R251 to R253: the intermediate values `a1`, `a2`, `a3`, `a4`, `s_new` of a gradient step. -/
structure Gradient where
  a1   : Int
  a2   : Int
  a3   : Int
  a4   : Int
  sNew : Int
  deriving DecidableEq, Repr

/-- R251, R252, R253. -/
def gradientOf (c : Config) (lastError r lr sm : Int) (elMs : Nat) : Gradient :=
  let a1 := floorDiv (c.plantSens * lastError) (scaleInt c)
  let a2 := floorDiv (a1 * r) (scaleInt c)
  let a3 := floorDiv (a2 * lr) (scaleInt c)
  let a4 := floorDiv (a3 * (elMs : Int)) 1000
  ⟨a1, a2, a3, a4, sm + floorDiv (c.smoothAlpha * (a4 - sm)) (scaleInt c)⟩

/-- R254: every intermediate value is inside the Fx range. -/
def Gradient.finite (c : Config) (g : Gradient) : Bool :=
  fxInRange c g.a1 && fxInRange c g.a2 && fxInRange c g.a3 && fxInRange c g.a4 && fxInRange c g.sNew

/-- What one gain's step leaves: the gain, its smoothed delta, and whether NumericFault was raised. -/
structure GainStep where
  gain   : Int
  smooth : Int
  fault  : Bool
  deriving DecidableEq, Repr

/-- R254: the gain moved by the capped delta, inside its bounds. -/
def capGain (c : Config) (g sNew gmin gmax : Int) : Int :=
  let lim := floorDiv (c.relCap * Int.ofNat g.natAbs) (scaleInt c)
  clamp (g + clamp sNew (-lim) lim) gmin gmax

/-- R251 to R255: `adapt_one`; the midpoint fallback of R255 comes first. -/
def adaptOne (c : Config) (lastError : Int) (elMs : Nat) (g r lr sm gmin gmax : Int) : GainStep :=
  if g < gmin ∨ gmax < g then ⟨midOf gmin gmax, sm, true⟩
  else
    let q := gradientOf c lastError r lr sm elMs
    if q.finite c then ⟨capGain c g q.sNew gmin gmax, q.sNew, false⟩ else ⟨g, sm, true⟩

/-- R250: the steps of the three gains, from the values of the evaluation just done. -/
def adaptKp (c : Config) (elMs : Nat) (l : Loop) : GainStep :=
  adaptOne c l.lastError elMs l.kp l.lastError c.lrKp l.sKp c.kpMin c.kpMax
def adaptKi (c : Config) (elMs : Nat) (l : Loop) : GainStep :=
  adaptOne c l.lastError elMs l.ki l.integral c.lrKi l.sKi c.kiMin c.kiMax
def adaptKd (c : Config) (elMs : Nat) (l : Loop) : GainStep :=
  adaptOne c l.lastError elMs l.kd l.lastDerivative c.lrKd l.sKd c.kdMin c.kdMax

/-- R250, 60 R276: the three steps together. -/
def adaptGains (c : Config) (elMs : Nat) (l : Loop) : Loop :=
  { l with
    kp := (adaptKp c elMs l).gain, sKp := (adaptKp c elMs l).smooth
    ki := (adaptKi c elMs l).gain, sKi := (adaptKi c elMs l).smooth
    kd := (adaptKd c elMs l).gain, sKd := (adaptKd c elMs l).smooth }

/-- 60 R276: NumericFault for gain number `k` when its step raised one. -/
def State.gainFault (s : State) (k : Nat) (fault : Bool) : State := if fault then s.raise .numericFault k else s

/-- R250: `adapt(now)`: not before its interval has passed, and no step before the grace period has. -/
def adapt (now : Time) (s : State) : State :=
  let elMs := el now s.loop.lastAdaptAt
  if elMs < s.cfg.adaptIntervalMs.toNat then s
  else
    let l := { s.loop with lastAdaptAt := now }
    if el now l.restartAt < s.cfg.graceMs.toNat then { s with loop := l }
    else
      ((({ s with loop := adaptGains s.cfg elMs l }.gainFault 0 (adaptKp s.cfg elMs l).fault).gainFault 1
        (adaptKi s.cfg elMs l).fault).gainFault 2 (adaptKd s.cfg elMs l).fault)

/-! ### SET_TARGET -/

/-- R245: the loop with a new target. The range moves and `corrected` stays, so that until the next TICK it can lie outside
the range: R245 is followed where 10 R41 (g) says otherwise (DEDUCED, log 24). -/
def retarget (c : Config) (t : Int) (l : Loop) : Loop := recomputeAdjusted c { l with target := t, integral := 0 }

/-- R245: `SET_TARGET(t)`; the same target again does nothing. -/
def execSetTarget (arg : BitVec 32) (s : State) : Host.Outcome State Fault Refusal :=
  let t := fxOperand s.cfg arg
  .next (if t = s.loop.target then s else { s with loop := retarget s.cfg t s.loop }.emit (.saveTarget t))

end Sys2Proof.Machine
end

