-- ==== Sys2Proof/Machine/Control.lean ====
section
/-! DEFINITION. The HysteresisGate, the toggle throttle and the loop's state machine (43_hysteresis_gate.md), and the event
TICK, "a single ordered pipeline" of gate and PID (44 R230). -/

namespace Sys2Proof.Machine

/-- R212: the two decisions, both comparisons strict. -/
def gateDecision (c : Config) (active : Bool) (delta : Int) : GateAnswer :=
  if !active && decide (c.hystOnThr < fxSub c 0 delta) then .turnOn
  else if active && decide (c.hystOffThr < delta) then .turnOff
  else .noOp

/-- R210, R211, R213: `gate(mode, active, cur, tgt)`. -/
def gate (c : Config) (mode : Mode) (active : Bool) (cur tgt : Int) : GateAnswer :=
  match mode with
  | .heat => gateDecision c active (fxSub c cur tgt)
  | .cool => gateDecision c active (fxSub c tgt cur)
  | .dry | .fan | .auto => .noOp

/-- R214: `throttle_ok(now)`. -/
def throttleOk (now : Time) (s : State) : Bool :=
  decide (s.cfg.toggleMinMs.toNat ≤ el now s.st.lastToggleAt)

/-- R215: the Store after an accepted toggle. -/
def storeToggle (p : Power) (now : Time) (st : Store) : Store :=
  { st with lastToggleAt := now, want := { st.want with power := some p } }

/-- R215: an accepted turn-on. -/
def toggleOn (now : Time) (s : State) : State :=
  { s with
    st := storeToggle .on now s.st
    loop := onFlip s.cfg s.st.status.roomTemperature now { s.loop with active := true } }.emit .turnOn

/-- R215: an accepted turn-off, a disable event. -/
def toggleOff (now : Time) (s : State) : State :=
  { s with
    st := storeToggle .off now s.st
    loop := onFlip s.cfg s.st.status.roomTemperature now (disableEvent s.cfg { s.loop with active := false }) }.emit
      .turnOff

/-- R215: `toggle(g, now)`; a request that the throttle defers is not remembered. -/
def toggle (g : GateAnswer) (now : Time) (s : State) : State :=
  match g with
  | .noOp => s
  | .turnOn => if throttleOk now s then toggleOn now s else s.emit (.toggleDeferred .turnOn)
  | .turnOff => if throttleOk now s then toggleOff now s else s.emit (.toggleDeferred .turnOff)

/-- 44 R234: the PID evaluates only in Active, and only in a mode that has a direction. -/
def pidRuns (mode : Mode) (s : State) : Bool :=
  s.loop.active && (decide (mode = .heat) || decide (mode = .cool))

/-- 44 R230, R239: evaluate, project, and adapt in the gradient variant. -/
def pidStep (cur : Int) (dtMs : Nat) (now : Time) (s : State) : State :=
  let l := evaluate s.cfg cur dtMs s.loop
  let s := { s with loop := { l with corrected := project s.cfg l l.lastOutput } }
  match s.cfg.pidVariant with
  | .gradient => adapt now s
  | .fixedDiscrete => s

/-- 44 R240: the neutral output. -/
def pidNeutral (s : State) : State := { s with loop := { s.loop with corrected := s.loop.target } }

/-- 44 R238: the corrected setpoint goes into the Store as local intent. -/
def writeBack (s : State) : State :=
  { s with st := { s.st with want := { s.st.want with temperature := some s.loop.corrected } } }

/-- 44 R230: TICK from the direction on, for the mode and the room temperature it reads; `dtMs` is the time step. -/
def control (dtMs : Nat) (now : Time) (s : State) : State :=
  let mode := s.st.modeNow
  let cur := s.st.status.roomTemperature
  let s := { s with loop := updateDirection s.cfg mode s.loop }
  let s := toggle (gate s.cfg mode s.loop.active cur s.loop.target) now s
  writeBack (if pidRuns mode s then pidStep cur dtMs now s else pidNeutral s)

/-- 44 R230, R231: `TICK @now`; before any room temperature it only records its time. -/
def execTick (now : Time) (s : State) : Host.Outcome State Fault Refusal :=
  let dtMs := timeStep s.cfg now s.loop.lastTickAt
  let s := { s with loop := { s.loop with lastTickAt := now } }
  .next (if s.st.haveRoomTemp then control dtMs now s else s)

end Sys2Proof.Machine
end

