-- ==== Sys2Proof/Machine/CfgCheck.lean ====
section
/-! DEFINITION. Well-formedness of the configuration, "which a model checks before it runs and refuses otherwise"
(00_scope.md R8), with the bounds that R7 gives in its column of types (log 16). -/

namespace Sys2Proof.Machine

/-- R8: no request has the sentinel code 0x00, and no two have the same. -/
def reqCodesWf (c : Config) : Bool :=
  c.req.all (fun r => decide (r.code ≠ 0x00#8)) && decide ((c.req.map (·.code)).Nodup)

/-- R8: the buffer, the number format and the time step. -/
def sizesWf (c : Config) : Bool :=
  decide (6 ≤ c.bufCap) && decide (c.bufCap ≤ 261) && decide (0 < c.scale) && decide (2 ≤ c.nw) &&
  decide (1 ≤ c.dtMinMs.toNat) && decide (c.dtMinMs.toNat ≤ c.dtMaxMs.toNat)

/-- R8: every `*_MIN ≤ *_MAX`. -/
def rangesWf (c : Config) : Bool :=
  decide (c.kpMin ≤ c.kpMax) && decide (c.kiMin ≤ c.kiMax) && decide (c.kdMin ≤ c.kdMax) &&
  decide (c.outputMin ≤ c.outputMax)

/-- R8: the parameters that are not negative. -/
def signsWf (c : Config) : Bool :=
  decide (0 ≤ c.underCap) && decide (0 ≤ c.overCap) && decide (0 ≤ c.hystOnThr) && decide (0 ≤ c.hystOffThr) &&
  decide (0 ≤ c.imaxFloor) && decide (0 ≤ c.imaxInit)

/-- R8: the Fx parameters, each inside the Fx range. -/
def fxParams (c : Config) : List Int :=
  [c.eps, c.hystOnThr, c.hystOffThr, c.kpInit, c.kiInit, c.kdInit, c.kpMin, c.kpMax, c.kiMin, c.kiMax, c.kdMin, c.kdMax,
   c.imaxInit, c.imaxFloor, c.kpShrink, c.imaxShrink, c.outputMin, c.outputMax, c.underCap, c.overCap, c.plantSens,
   c.lrKp, c.lrKi, c.lrKd, c.smoothAlpha, c.relCap]

/-- R7, the column of types: `EPS ≥ 0`, the factors in (0, 1], the smoothing factor in [0, 1], `REL_CAP ≥ 0`,
`REPEAT_DISABLE_MIN ≥ 1`. -/
def typesWf (c : Config) : Bool :=
  decide (0 ≤ c.eps) && decide (0 < c.kpShrink) && decide (c.kpShrink ≤ scaleInt c) &&
  decide (0 < c.imaxShrink) && decide (c.imaxShrink ≤ scaleInt c) &&
  decide (0 ≤ c.smoothAlpha) && decide (c.smoothAlpha ≤ scaleInt c) && decide (0 ≤ c.relCap) &&
  decide (1 ≤ c.repeatDisableMin)

/-- R8: the whole check. -/
def configWf (c : Config) : Bool :=
  sizesWf c && reqCodesWf c && rangesWf c && signsWf c && (fxParams c).all (fxInRange c) && typesWf c

end Sys2Proof.Machine
end

