-- ==== Sys2Proof/Machine/Pins.lean ====
section
/-! DEFINITION. The operations with no effect, NOP and the reserved selectors (30_encoding.md R96), and the RESET pin
(70_reset_and_hazards.md R300 to R303). -/

namespace Sys2Proof.Machine

/-- 30 R96: NOP. -/
def execNop (s : State) : Host.Outcome State Fault Refusal := .next s

/-- 30 R96: the reserved selector 0xD, not an error. -/
def execReservedD (s : State) : Host.Outcome State Fault Refusal := .next s

/-- 30 R96: the reserved selector 0xE, not an error. -/
def execReservedE (s : State) : Host.Outcome State Fault Refusal := .next s

/-- 30 R96: the reserved selector 0xF, not an error. -/
def execReservedF (s : State) : Host.Outcome State Fault Refusal := .next s

/-- 70 R302: the configuration in force after a RESET: the replacement that the platform has ready for it, if any (log 3). -/
def State.resetCfg (s : State) : Config := (s.newCfg.headD none).getD s.cfg

/-- 70 R300, R301: every piece of state at its reset value, under the configuration that the platform has ready. What is
outside the block stays: the inputs and the replacements still to come, the trace, which goes on (R302), and the model's
counter (log 3, log 6). -/
def afterReset (s : State) : State :=
  { State.resetOf s.resetCfg with newCfg := s.newCfg.tail, out := s.out, port := s.port, freeCtr := s.freeCtr }

/-- 70 R300, 00 R8: RESET; a configuration that is not well-formed is refused. -/
def execReset (s : State) : Host.Outcome State Fault Refusal :=
  if configWf s.resetCfg then .next (afterReset s) else .refused .illFormedConfig

end Sys2Proof.Machine
end

