-- ==== Sys2Proof/WellFormed.lean ====
section
/-! DEFINITION. Which terms of `Instr` are operations of the block. Every event is (30 R95: each operand of its width
is legal); a frame needs a length that its length byte can hold (30 R81) and, for a 0x62 row, the row's subtype as its
first data byte (30 R87). -/

namespace Sys2Proof

/-- 30 R81: `data_length` is one byte, so `L` is at most 255. -/
def Frame.fits (f : Frame) : Bool := decide (f.data.length ≤ 255)

/-- 30 R87: the frame's `data[0]` is there and is `sub`. -/
def Frame.hasSubtype (f : Frame) (sub : Byte) : Bool := f.data.head? == some sub

/-- The well-formed operations. -/
def Instr.wf : Instr → Bool
  | .fAck f _      => f.fits
  | .fSettings f _ => f.fits && f.hasSubtype 0x02#8
  | .fRoomtemp f _ => f.fits && f.hasSubtype 0x03#8
  | .fTimers f _   => f.fits && f.hasSubtype 0x05#8
  | .fStatus f _   => f.fits && f.hasSubtype 0x06#8
  | .fStandby f _  => f.fits && f.hasSubtype 0x09#8
  | .fFuncLo f _   => f.fits && f.hasSubtype 0x20#8
  | .fFuncHi f _   => f.fits && f.hasSubtype 0x22#8
  | .fConnA f _    => f.fits
  | .fConnB f _    => f.fits
  | .nop _ => true
  | .rxByte _ _ => true
  | .startCycle _ => true
  | .timeout _ _ => true
  | .tick _ => true
  | .setTarget _ _ => true
  | .setPower _ _ => true
  | .setMode _ _ => true
  | .setTemperature _ _ => true
  | .setFan _ _ => true
  | .setVane _ _ => true
  | .setWidevane _ _ => true
  | .linkDown _ => true
  | .reservedD _ => true
  | .reservedE _ => true
  | .reservedF _ => true
  | .reset => true

end Sys2Proof
end

