-- ==== Sys2Proof/Decode.lean ====
section
/-! DEFINITION. The decoder and the encoder: frames (30_encoding.md R80 to R88) and input events (R95), both total,
a frame that is none being rejected by name. `decodeTableWord` reads a row's word as spec/opcode_table.json numbers it. -/

namespace Sys2Proof

/-! ### The checksum (R84) -/

/-- The sum of bytes modulo 256. -/
def sumBytes (bs : List Byte) : Byte := bs.foldr (· + ·) 0#8

/-- R84: `0xFC` less the sum of the header and data bytes `bs`, modulo 256. -/
def checksum (bs : List Byte) : Byte := 0xFC#8 - sumBytes bs

/-! ### The opcode map of frames (R86, R87, R88) -/

/-- R87: the rows of the dispatch table. -/
inductive FrameType where
  | ack | settings | roomtemp | timers | status | standby | funcLo | funcHi | connA | connB
  deriving DecidableEq, Repr

/-- R88: why a valid frame is not in the table; such a frame is ignored without error. -/
inductive Unknown where
  | command (cmd : Byte)
  | noSubtype
  | subtype (sub : Byte)
  deriving DecidableEq, Repr

/-- R87, R88: the second level of the map, keyed by `data[0]` of a 0x62 frame. -/
def subtypeOf (sub : Byte) : Except Unknown FrameType :=
  if sub = 0x02#8 then .ok .settings
  else if sub = 0x03#8 then .ok .roomtemp
  else if sub = 0x05#8 then .ok .timers
  else if sub = 0x06#8 then .ok .status
  else if sub = 0x09#8 then .ok .standby
  else if sub = 0x20#8 then .ok .funcLo
  else if sub = 0x22#8 then .ok .funcHi
  else .error (.subtype sub)

/-- R86, R87, R88: the map from the command and the data bytes to the row. -/
def frameTypeOf (cmd : Byte) (data : List Byte) : Except Unknown FrameType :=
  if cmd = 0x61#8 then .ok .ack
  else if cmd = 0x62#8 then
    match data with
    | [] => .error .noSubtype
    | sub :: _ => subtypeOf sub
  else if cmd = 0x7A#8 then .ok .connA
  else if cmd = 0x7B#8 then .ok .connB
  else .error (.command cmd)

/-- R87: the row's command byte. -/
def FrameType.command : FrameType → Byte
  | .ack => 0x61#8
  | .settings | .roomtemp | .timers | .status | .standby | .funcLo | .funcHi => 0x62#8
  | .connA => 0x7A#8
  | .connB => 0x7B#8

/-- The operation of a row. -/
def FrameType.instr (t : FrameType) (f : Frame) (now : Time) : Instr :=
  match t with
  | .ack => .fAck f now
  | .settings => .fSettings f now
  | .roomtemp => .fRoomtemp f now
  | .timers => .fTimers f now
  | .status => .fStatus f now
  | .standby => .fStandby f now
  | .funcLo => .fFuncLo f now
  | .funcHi => .fFuncHi f now
  | .connA => .fConnA f now
  | .connB => .fConnB f now

/-! ### Frames -/

/-- Why a byte sequence is no frame of the table. -/
inductive Reject where
  /-- Fewer than the five header bytes (R81). -/
  | truncatedHeader
  /-- The first byte is not 0xFC (R81). -/
  | badStart (b : Byte)
  /-- Not `L + 6` bytes in all (R80, R83). -/
  | badLength (len : Byte)
  /-- The last byte is not the checksum (R84). -/
  | badChecksum (received : Byte)
  /-- Not in the dispatch table (R88). -/
  | unknown (u : Unknown)
  deriving DecidableEq, Repr

/-- R80 to R88: the operation a complete frame stands for, `now` being the time of its last byte. -/
def decodeFrame (bytes : List Byte) (now : Time) : Except Reject Instr :=
  match bytes with
  | start :: cmd :: fa :: fb :: len :: rest =>
    if start ≠ 0xFC#8 then .error (.badStart start)
    else if rest.length ≠ len.toNat + 1 then .error (.badLength len)
    else
      let data := rest.take len.toNat
      let received := rest.getD len.toNat 0#8
      if checksum (start :: cmd :: fa :: fb :: len :: data) ≠ received then .error (.badChecksum received)
      else
        match frameTypeOf cmd data with
        | .ok t => .ok (t.instr ⟨fa, fb, data⟩ now)
        | .error u => .error (.unknown u)
  | _ => .error .truncatedHeader

/-- R81: the header and data bytes of a frame. -/
def frameBody (cmd : Byte) (f : Frame) : List Byte :=
  0xFC#8 :: cmd :: f.fixedA :: f.fixedB :: BitVec.ofNat 8 f.data.length :: f.data

/-- R80, R84: a whole frame, the checksum last. -/
def encodeFrame (cmd : Byte) (f : Frame) : List Byte :=
  frameBody cmd f ++ [checksum (frameBody cmd f)]

/-! ### Events (R95) -/

/-- The three fields of an event word. -/
def eventOp (w : BitVec 68) : BitVec 4 := w.extractLsb' 0 4
def eventArg (w : BitVec 68) : BitVec 32 := w.extractLsb' 4 32
def eventNow (w : BitVec 68) : Time := w.extractLsb' 36 32

/-- An event word from its fields. -/
def packEvent (op : BitVec 4) (arg : BitVec 32) (now : Time) : BitVec 68 := now ++ arg ++ op

/-- R95: an operand that is `arg[7:0]`. -/
def argByte (arg : BitVec 32) : Byte := arg.extractLsb' 0 8

/-- R95, R96: every selector is an operation; bits of `arg` that the row ignores are dropped. -/
def decodeEvent (w : BitVec 68) : Instr :=
  let arg := eventArg w
  let now := eventNow w
  match (eventOp w).toNat with
  | 0x0 => .nop now
  | 0x1 => .rxByte (argByte arg) now
  | 0x2 => .startCycle now
  | 0x3 => .timeout (argByte arg) now
  | 0x4 => .tick now
  | 0x5 => .setTarget arg now
  | 0x6 => .setPower (argByte arg) now
  | 0x7 => .setMode (argByte arg) now
  | 0x8 => .setTemperature arg now
  | 0x9 => .setFan (argByte arg) now
  | 0xA => .setVane (argByte arg) now
  | 0xB => .setWidevane (argByte arg) now
  | 0xC => .linkDown now
  | 0xD => .reservedD now
  | 0xE => .reservedE now
  | _ => .reservedF now          -- 0xF, the one value left of four bits

/-- 60 R291: what is presented at the ports. -/
def decodeInput : Input → Instr
  | .resetPin => .reset
  | .event w => decodeEvent w

/-! ### Both together -/

/-- An operation as bits: presented at a port, or a frame on the link with the time of its last byte. -/
inductive Encoded where
  | port (i : Input)
  | link (bytes : List Byte) (now : Time)
  deriving DecidableEq, Repr

/-- The decoder, total on any bits. -/
def decode : Encoded → Except Reject Instr
  | .port i => .ok (decodeInput i)
  | .link bytes now => decodeFrame bytes now

/-- An event whose operand is one byte, the other bits of `arg` zero. -/
def byteEvent (op : BitVec 4) (b : Byte) (now : Time) : Encoded :=
  .port (.event (packEvent op (b.setWidth 32) now))

/-- An event that ignores `arg`, which is sent as zero. -/
def bareEvent (op : BitVec 4) (now : Time) : Encoded := .port (.event (packEvent op 0#32 now))

/-- The encoder: the bits of a well-formed operation (R81, R84, R87, R95). -/
def encode : Instr → Encoded
  | .fAck f now => .link (encodeFrame 0x61#8 f) now
  | .fSettings f now => .link (encodeFrame 0x62#8 f) now
  | .fRoomtemp f now => .link (encodeFrame 0x62#8 f) now
  | .fTimers f now => .link (encodeFrame 0x62#8 f) now
  | .fStatus f now => .link (encodeFrame 0x62#8 f) now
  | .fStandby f now => .link (encodeFrame 0x62#8 f) now
  | .fFuncLo f now => .link (encodeFrame 0x62#8 f) now
  | .fFuncHi f now => .link (encodeFrame 0x62#8 f) now
  | .fConnA f now => .link (encodeFrame 0x7A#8 f) now
  | .fConnB f now => .link (encodeFrame 0x7B#8 f) now
  | .nop now => bareEvent 0x0#4 now
  | .rxByte b now => byteEvent 0x1#4 b now
  | .startCycle now => bareEvent 0x2#4 now
  | .timeout code now => byteEvent 0x3#4 code now
  | .tick now => bareEvent 0x4#4 now
  | .setTarget arg now => .port (.event (packEvent 0x5#4 arg now))
  | .setPower sym now => byteEvent 0x6#4 sym now
  | .setMode sym now => byteEvent 0x7#4 sym now
  | .setTemperature arg now => .port (.event (packEvent 0x8#4 arg now))
  | .setFan sym now => byteEvent 0x9#4 sym now
  | .setVane sym now => byteEvent 0xA#4 sym now
  | .setWidevane sym now => byteEvent 0xB#4 sym now
  | .linkDown now => bareEvent 0xC#4 now
  | .reservedD now => bareEvent 0xD#4 now
  | .reservedE now => bareEvent 0xE#4 now
  | .reservedF now => bareEvent 0xF#4 now
  | .reset => .port .resetPin

/-! ### The opcode table's words -/

/-- Byte `k` (0 to 5) of a 48-bit table word: offset 0 is bits 47..40, offset 5 is bits 7..0 (R86). -/
def tableByte (w k : Nat) : Byte := BitVec.ofNat 8 (w / 2 ^ (8 * (5 - k)))

/-- The data bytes of the frame a 48-bit table word stands for. A length of 0 is read as 1 for a 0x62 word, whose row
needs `L ≥ 1`; the data bytes the table gives no bits are zero (log 15). A table word knows no BUF_CAP: one whose length is
too large for a configuration (30 R81) is decoded as its row all the same (DESIGN CHOICE, log 15). -/
def tableData (w : Nat) : List Byte :=
  let len := (tableByte w 4).toNat
  let len := if tableByte w 1 = 0x62#8 ∧ len = 0 then 1 else len
  if len = 0 then [] else tableByte w 5 :: List.replicate (len - 1) 0#8

/-- The header and data bytes of the frame a 48-bit table word stands for. -/
def tableBody (w : Nat) : List Byte :=
  [tableByte w 0, tableByte w 1, tableByte w 2, tableByte w 3, BitVec.ofNat 8 (tableData w).length] ++ tableData w

/-- The whole frame of a 48-bit table word: the table gives the checksum no bits of its own, so it is the one that
R84 asks for (log 15). -/
def tableFrame (w : Nat) : List Byte := tableBody w ++ [checksum (tableBody w)]

/-- How wide a frame row's table word is (R86), and how wide the RESET pin's is. -/
def frameWordBits : Nat := 48
def pinWordBits : Nat := 1

/-- The instruction the decoder reads from a table word: a 48-bit word is a frame row's (R86), a 1-bit word the RESET
pin, any other an event's (R95) with `op` in bits 3..0 and every bit above `nbits` zero. -/
def decodeTableWord (nbits w : Nat) : Option Instr :=
  if nbits = frameWordBits then
    match decodeFrame (tableFrame w) 0#32 with
    | .ok i => some i
    | .error _ => none
  else if nbits = pinWordBits then
    if w % 2 = 1 then some .reset else none
  else some (decodeEvent (BitVec.ofNat 68 (w % 2 ^ nbits)))

end Sys2Proof
end

