-- ==== Sys2Proof/Machine/Scheduler.lean ====
section
/-! DEFINITION. The RequestScheduler (42_request_scheduler.md): its internal procedures and the events START_CYCLE and
TIMEOUT. -/

namespace Sys2Proof.Machine

/-- R181: where the scan starts: at 0 for the sentinel and for a code of no entry, else after the entry. -/
def startIndex (c : Config) (prev : Byte) : Nat :=
  if prev = 0x00#8 then 0
  else
    match findReq c prev with
    | some i => i + 1
    | none => 0

/-- R182: may request `i` be sent now. -/
def sendable (s : State) (now : Time) (i : Nat) : Bool :=
  match s.cfg.req[i]?, s.sch[i]? with
  | some q, some r =>
    !r.disabled && canSendHolds q.canSend s.st && decide (q.minIntervalMs.toNat ≤ el now r.lastSentAt)
  | _, _ => false

/-- R182: the first sendable request from `start` to the end of the list; the scan does not wrap. -/
def scanFrom (s : State) (now : Time) (start : Nat) : Option Nat :=
  ((List.range s.cfg.req.length).drop start).find? (sendable s now)

/-- R184: an entry that has just been sent. -/
def ReqState.sent (now : Time) (r : ReqState) : ReqState := { r with awaiting := true, lastSentAt := now }

/-- R184: `send(i, now)` of the request whose static fields are `q`. -/
def sendReq (i : Nat) (q : ReqCfg) (now : Time) (s : State) : State :=
  (((s.emit (.txRequest q.code)).updReq i (ReqState.sent now)).emit (.armTimer q.code q.softTimeoutMs)).armTimer
    ⟨q.code, now, q.softTimeoutMs⟩

/-- R182, R183: `send_next_after(prev, now)`. -/
def sendNextAfter (prev : Byte) (now : Time) (s : State) : State :=
  match scanFrom s now (startIndex s.cfg prev) with
  | some i =>
    match s.cfg.req[i]? with
    | some q => sendReq i q now s
    | none => s.emit .cycleDone
  | none => s.emit .cycleDone

/-- R185: an entry whose answer has been seen. -/
def ReqState.answered (r : ReqState) : ReqState := { r with awaiting := false, failures := 0x00#8 }

/-- R185: `mark_response_seen(code)` at the matching entry `i`. -/
def markResponseSeen (i : Nat) (code : Byte) (s : State) : State :=
  let f := match s.cfg.req[i]? with
    | some q => q.onResponse
    | none => .identity
  let s := s.updReq i ReqState.answered
  { s with st := onResponseOf s.cfg f s.st }.emit (.respSeen code)

/-- R188: `process_response(code, now)`; the next request is sent only if this one was in flight. -/
def processResponse (code : Byte) (now : Time) (s : State) : State :=
  match findReq s.cfg code with
  | none => s
  | some i =>
    if s.awaitingAt i then sendNextAfter code now (markResponseSeen i code s)
    else markResponseSeen i code s

/-- R187: an entry that has timed out; disabled once `failures` has reached `max_failures`. -/
def ReqState.timedOut (maxFailures : BitVec 8) (r : ReqState) : ReqState :=
  { r with
    failures := r.failures + 1#8
    disabled := r.disabled || decide (maxFailures.toNat ≤ (r.failures + 1#8).toNat)
    awaiting := false }

/-- R187: the effect of TIMEOUT once its timer entry is gone. -/
def timeoutEffect (code : Byte) (now : Time) (s : State) : State :=
  match findReq s.cfg code with
  | none => s
  | some i =>
    if s.awaitingAt i then
      let maxFailures := match s.cfg.req[i]? with
        | some q => q.maxFailures
        | none => 0x00#8
      sendNextAfter code now ((s.raise .nonResponse code.toNat).updReq i (ReqState.timedOut maxFailures))
    else s

/-- R186, R187: `TIMEOUT(code) @now`. With no pending entry for the code there is nothing to remove and the rest is done,
the reading of 70 R303 (log 7). -/
def execTimeout (code : Byte) (now : Time) (s : State) : Host.Outcome State Fault Refusal :=
  .next (timeoutEffect code now (s.dropTimer code))

/-- R190: is a request in flight. -/
def State.anyAwaiting (s : State) : Bool := s.sch.any (·.awaiting)

/-- R190: `START_CYCLE @now`, ignored while a request is in flight. -/
def execStartCycle (now : Time) (s : State) : Host.Outcome State Fault Refusal :=
  .next (if s.anyAwaiting then s else sendNextAfter 0x00#8 now s)

end Sys2Proof.Machine
end

