-- ==== Sys2Proof/Machine/Frames.lean ====
section
/-! DEFINITION. The frame types (41_frame_dispatch_and_store.md): for each its effect on the StateStore (`apply…`) and its
meaning as an operation: that effect and then, for a 0x62 frame, the notice to the scheduler (40 R125, R126). The
checksum has been verified and the decoder is back in `Seeking` when they run (40 R116). -/

namespace Sys2Proof.Machine

/-- One more frame has drawn free bytes (log 9). -/
def State.countFree (s : State) : State := { s with freeCtr := s.freeCtr + 1 }

/-! ### F_ACK -/

/-- R144: every `Some` of `want` over `cur`. -/
def mergeWanted (cur : Settings) (want : Wanted) : Settings where
  power := want.power.getD cur.power
  mode := want.mode.getD cur.mode
  temperature := want.temperature.getD cur.temperature
  fan := want.fan.getD cur.fan
  vane := want.vane.getD cur.vane
  wideVane := want.wideVane.getD cur.wideVane

/-- R144: `apply_ack()`. -/
def applyAck (s : State) : State :=
  let new := mergeWanted s.st.cur s.st.want
  { s with st := { s.st with cur := new, want := wantedNone } }.notifySettings
    (!settingsEqual s.cfg s.st.cur new)

/-- R144: F_ACK; the payload is ignored and the scheduler is not notified (40 R126). -/
def execFAck (s : State) : Host.Outcome State Fault Refusal := .next (applyAck s)

/-! ### F_SETTINGS -/

/-- R146: the bootstrap of `want`. -/
def wantedAll (x : Settings) : Wanted :=
  ⟨some x.power, some x.mode, some x.temperature, some x.fan, some x.vane, some x.wideVane⟩

/-- R146: the Store after a settings frame that carries `new`. -/
def storeSettings (new : Settings) (st : Store) : Store :=
  { st with cur := new, want := if st.firstRun then wantedAll new else st.want, firstRun := false }

/-- R146: `apply_settings()`. -/
def applySettings (data : List Byte) (s : State) : State :=
  if data.length < s.cfg.pmap.setMinLen then s
  else
    let new := settingsOf s.cfg s.freeCtr data
    { s with st := storeSettings new s.st }.countFree.notifySettings
      (s.st.firstRun || !settingsEqual s.cfg s.st.cur new)

/-- R146, 40 R126: F_SETTINGS. -/
def execFSettings (f : Frame) (now : Time) (s : State) : Host.Outcome State Fault Refusal :=
  .next (processResponse 0x02#8 now (applySettings f.data s))

/-! ### F_ROOMTEMP -/

/-- R148: the frame takes the signed path: its byte is present and not zero. -/
def signedPath (c : Config) (n : Nat) (data : List Byte) : Bool :=
  decide (c.pmap.rtExt < data.length) && decide (dataAt n data c.pmap.rtExt ≠ 0x00#8)

/-- R148: the room temperature, signed or by table. -/
def roomTemperatureOf (c : Config) (n : Nat) (data : List Byte) : Int :=
  if signedPath c n data then signedHalf c (dataAt n data c.pmap.rtExt)
  else tableTemp c c.pmap.roomTempTable (dataAt n data c.pmap.rtCode) n

/-- R148: the runtime, kept where its bytes are absent. -/
def runtimeOf (c : Config) (n : Nat) (data : List Byte) (old : Int) : Int :=
  let r := c.pmap.rtRuntime
  if r + 2 < data.length then
    fxUnsigned c (be24 (dataAt n data r) (dataAt n data (r + 1)) (dataAt n data (r + 2))) c.pmap.rtRuntimeDiv
  else old

/-- R148, R149: the Store after a room temperature frame. -/
def storeRoomtemp (c : Config) (n : Nat) (data : List Byte) (st : Store) : Store :=
  { st with
    status := { st.status with
      roomTemperature := roomTemperatureOf c n data
      runtimeHours := runtimeOf c n data st.status.runtimeHours }
    extTempMode := st.extTempMode || signedPath c n data
    haveRoomTemp := true }

/-- R148: `apply_roomtemp()`. -/
def applyRoomtemp (data : List Byte) (s : State) : State :=
  if data.length < s.cfg.pmap.rtMinLen then s
  else { s with st := storeRoomtemp s.cfg s.freeCtr data s.st }.countFree.notifyStatus s.st.status

/-- R148, 40 R126: F_ROOMTEMP. -/
def execFRoomtemp (f : Frame) (now : Time) (s : State) : Host.Outcome State Fault Refusal :=
  .next (processResponse 0x03#8 now (applyRoomtemp f.data s))

/-! ### F_TIMERS -/

/-- R150, R155, R156: `count` data bytes from index `first` on. -/
def dataSlice (n : Nat) (data : List Byte) (first count : Nat) : List Byte :=
  (List.range count).map fun k => dataAt n data (first + k)

/-- R150: `apply_timers()`. -/
def applyTimers (data : List Byte) (s : State) : State :=
  if data.length < s.cfg.pmap.tmMinLen then s
  else
    { s with st := { s.st with
        timerRaw := memWriteAll s.st.timerRaw 0 (dataSlice s.freeCtr data s.cfg.pmap.tmFirst timerBytes) } }.countFree

/-- R150, 40 R126: F_TIMERS. -/
def execFTimers (f : Frame) (now : Time) (s : State) : Host.Outcome State Fault Refusal :=
  .next (processResponse 0x05#8 now (applyTimers f.data s))

/-! ### F_STATUS -/

/-- R152: a two-byte field, kept where its bytes are absent. -/
def word16Of (c : Config) (n : Nat) (data : List Byte) (i d : Nat) (old : Int) : Int :=
  if i + 1 < data.length then fxUnsigned c (be16 (dataAt n data i) (dataAt n data (i + 1))) d else old

/-- R152: the status a status frame makes of the old one. -/
def statusOf (c : Config) (n : Nat) (data : List Byte) (old : Status) : Status :=
  { old with
    compressorFrequency := fxUnsigned c (dataAt n data c.pmap.staFreq).toNat 1
    operating := decide (dataAt n data c.pmap.staOperating ≠ 0x00#8)
    inputPower := word16Of c n data c.pmap.staPower 1 old.inputPower
    kwh := word16Of c n data c.pmap.staKwh c.pmap.staKwhDiv old.kwh }

/-- R152: `apply_status()`. -/
def applyStatus (data : List Byte) (s : State) : State :=
  if data.length < s.cfg.pmap.staMinLen then s
  else
    { s with st := { s.st with status := statusOf s.cfg s.freeCtr data s.st.status } }.countFree.notifyStatus
      s.st.status

/-- R152, 40 R126: F_STATUS. -/
def execFStatus (f : Frame) (now : Time) (s : State) : Host.Outcome State Fault Refusal :=
  .next (processResponse 0x06#8 now (applyStatus f.data s))

/-! ### F_STANDBY -/

/-- R154, 40 R126: F_STANDBY: no effect on the Store, the scheduler is notified. -/
def execFStandby (now : Time) (s : State) : Host.Outcome State Fault Refusal :=
  .next (processResponse 0x09#8 now s)

/-! ### F_FUNC_LO, F_FUNC_HI -/

/-- R155, R156: fill the half of the function table that begins at `base`. -/
def applyFunc (base : Nat) (data : List Byte) (s : State) : State :=
  if data.length < s.cfg.pmap.fnMinLen then s
  else
    { s with st := { s.st with
        func := memWriteAll s.st.func base (dataSlice s.freeCtr data s.cfg.pmap.fnFirst funcHalf) } }.countFree

/-- R155, 40 R126: F_FUNC_LO. -/
def execFFuncLo (f : Frame) (now : Time) (s : State) : Host.Outcome State Fault Refusal :=
  .next (processResponse 0x20#8 now (applyFunc 0 f.data s))

/-- R156, 40 R126: F_FUNC_HI. -/
def execFFuncHi (f : Frame) (now : Time) (s : State) : Host.Outcome State Fault Refusal :=
  .next (processResponse 0x22#8 now (applyFunc funcHalf f.data s))

/-! ### F_CONN_A, F_CONN_B -/

/-- R157: F_CONN_A; the payload is ignored and the scheduler is not notified. -/
def execFConnA (s : State) : Host.Outcome State Fault Refusal := .next (s.setConnected true)

/-- R157: F_CONN_B, the same effect. -/
def execFConnB (s : State) : Host.Outcome State Fault Refusal := .next (s.setConnected true)

end Sys2Proof.Machine
end

