-- ==== Sys2Proof/Machine/Receive.lean ====
section
/-! DEFINITION. The FrameDecoder (40_frame_decoder.md): the event RX_BYTE and its procedures. A byte that completes a frame
runs the frame's meaning within the same event. -/

namespace Sys2Proof.Machine

/-- R111: `seek(b)`. -/
def seek (b : Byte) (s : State) : State :=
  if b = 0xFC#8 then
    { s with dec := { s.dec with buf := memWrite s.dec.buf 0 0xFC#8, count := 1, fsm := .readingHeader } }
  else s

/-- R114: `oversize()`, the length byte being `b`. -/
def oversize (b : Byte) (s : State) : State := (s.raise .oversize b.toNat).seekAgain

/-- R113, R114: `header_done(b)`. -/
def headerDone (b : Byte) (s : State) : State :=
  if s.cfg.bufCap < b.toNat + 6 then oversize b s
  else { s with dec := { s.dec with len := b, fsm := .readingBody } }

/-- R112: `header(b)`. -/
def header (b : Byte) (s : State) : Host.Outcome State Fault Refusal :=
  match s.storeByte b with
  | none => .fault (.bufferIndex s.dec.count)
  | some s => .next (if s.dec.count = 5 then headerDone b s else s)

/-- R117: `verify_checksum()`: the header and `L` data bytes against the byte after them. -/
def verifyChecksum (d : Decoder) : Bool :=
  decide (checksum (memReadAll d.buf 0 (d.len.toNat + 5)) = memRead d.buf (d.len.toNat + 5))

/-- R118: `overflow()`. -/
def overflow (s : State) : State := (s.raise .overflow s.dec.count).seekAgain

/-- R61: the free parts of the frame that stands in the buffer. -/
def Decoder.frame (d : Decoder) : Frame := ⟨memRead d.buf 2, memRead d.buf 3, d.payload⟩

/-- R125, R126: the meaning of the frame type; an unknown subtype only notifies the scheduler, an unknown command and a 0x62
frame with no data do nothing (30 R88). -/
def dispatch (now : Time) (s : State) : Host.Outcome State Fault Refusal :=
  let f := s.dec.frame
  match frameTypeOf (memRead s.dec.buf 1) f.data with
  | .ok .ack => execFAck s
  | .ok .settings => execFSettings f now s
  | .ok .roomtemp => execFRoomtemp f now s
  | .ok .timers => execFTimers f now s
  | .ok .status => execFStatus f now s
  | .ok .standby => execFStandby now s
  | .ok .funcLo => execFFuncLo f now s
  | .ok .funcHi => execFFuncHi f now s
  | .ok .connA => execFConnA s
  | .ok .connB => execFConnB s
  | .error (.subtype sub) => .next (processResponse sub now s)
  | .error .noSubtype => .next s
  | .error (.command _) => .next s

/-- R116, R119, R128: `complete(now)`. -/
def complete (now : Time) (s : State) : Host.Outcome State Fault Refusal :=
  if verifyChecksum s.dec then
    dispatch now (s.seekAgain.emit (.frameAccepted (memRead s.dec.buf 1) s.dec.len))
  else .next (s.seekAgain.raise .badChecksum (memRead s.dec.buf (s.dec.len.toNat + 5)).toNat)

/-- R115, R118: `body(b, now)`; the test for completion comes before the overflow guard. -/
def body (b : Byte) (now : Time) (s : State) : Host.Outcome State Fault Refusal :=
  match s.storeByte b with
  | none => .fault (.bufferIndex s.dec.count)
  | some s =>
    if s.dec.count = s.dec.len.toNat + 6 then complete now s
    else if s.cfg.bufCap ≤ s.dec.count then .next (overflow s)
    else .next s

/-- R110: `RX_BYTE(b) @now`. -/
def execRxByte (b : Byte) (now : Time) (s : State) : Host.Outcome State Fault Refusal :=
  match s.dec.fsm with
  | .seeking => .next (seek b s)
  | .readingHeader => header b s
  | .readingBody => body b now s

end Sys2Proof.Machine
end

