-- ==== Sys2Proof/Machine/Setters.lean ====
section
/-! DEFINITION. The setter events (41_frame_dispatch_and_store.md R160 to R165) and LINK_DOWN (R167). -/

namespace Sys2Proof.Machine

/-- 60 R275: the field numbers. -/
def fieldPower : Nat := 0
def fieldMode : Nat := 1
def fieldTemperature : Nat := 2
def fieldFan : Nat := 3
def fieldVane : Nat := 4
def fieldWideVane : Nat := 5

/-- R160, 60 R275: an index that does not resolve raises InvalidSymbol. -/
def State.checkSym (s : State) (field n : Nat) (sym : Byte) : State :=
  if symResolves n sym then s else s.raise .invalidSymbol (field * 256 + sym.toNat)

/-- R160: `want` written and the canonical value reported. -/
def State.setWant (s : State) (want : Wanted) (field : Nat) (value : Int) : State :=
  { s with st := { s.st with want := want } }.emit (.setterResult field value)

/-- R160: `SET_POWER(sym)`. -/
def execSetPower (sym : Byte) (s : State) : Host.Outcome State Fault Refusal :=
  .next ((s.checkSym fieldPower 2 sym).setWant { s.st.want with power := some (powerOfIdx (resolveSym 2 sym)) }
    fieldPower (resolveSym 2 sym))

/-- R161: `SET_MODE(sym)`. -/
def execSetMode (sym : Byte) (s : State) : Host.Outcome State Fault Refusal :=
  .next ((s.checkSym fieldMode 5 sym).setWant { s.st.want with mode := some (modeOfIdx (resolveSym 5 sym)) }
    fieldMode (resolveSym 5 sym))

/-- R162: `SET_TEMPERATURE(t)`: no table, no clamp, no error. -/
def execSetTemperature (arg : BitVec 32) (s : State) : Host.Outcome State Fault Refusal :=
  .next (s.setWant { s.st.want with temperature := some (fxOperand s.cfg arg) } fieldTemperature (fxOperand s.cfg arg))

/-- R163: `SET_FAN(sym)`. -/
def execSetFan (sym : Byte) (s : State) : Host.Outcome State Fault Refusal :=
  .next ((s.checkSym fieldFan 6 sym).setWant { s.st.want with fan := some (fin6OfIdx (resolveSym 6 sym)) }
    fieldFan (resolveSym 6 sym))

/-- R164: `SET_VANE(sym)`. -/
def execSetVane (sym : Byte) (s : State) : Host.Outcome State Fault Refusal :=
  .next ((s.checkSym fieldVane 7 sym).setWant { s.st.want with vane := some (fin7OfIdx (resolveSym 7 sym)) }
    fieldVane (resolveSym 7 sym))

/-- R165: `SET_WIDEVANE(sym)`. -/
def execSetWidevane (sym : Byte) (s : State) : Host.Outcome State Fault Refusal :=
  .next ((s.checkSym fieldWideVane 7 sym).setWant { s.st.want with wideVane := some (fin7OfIdx (resolveSym 7 sym)) }
    fieldWideVane (resolveSym 7 sym))

/-- R167: `LINK_DOWN`. -/
def execLinkDown (s : State) : Host.Outcome State Fault Refusal :=
  .next ((s.setConnected false).raise .transportError 0)

end Sys2Proof.Machine
end

