-- ==== Sys2Proof/Machine/Dispatch.lean ====
section
/-! DEFINITION. One arm per operation: a direct call of its meaning. -/

namespace Sys2Proof.Machine

def exec (i : Instr) (s : State) : Host.Outcome State Fault Refusal :=
  match i with
  | .fAck _ _ => Sys2Proof.Machine.execFAck s
  | .fSettings f now => Sys2Proof.Machine.execFSettings f now s
  | .fRoomtemp f now => Sys2Proof.Machine.execFRoomtemp f now s
  | .fTimers f now => Sys2Proof.Machine.execFTimers f now s
  | .fStatus f now => Sys2Proof.Machine.execFStatus f now s
  | .fStandby _ now => Sys2Proof.Machine.execFStandby now s
  | .fFuncLo f now => Sys2Proof.Machine.execFFuncLo f now s
  | .fFuncHi f now => Sys2Proof.Machine.execFFuncHi f now s
  | .fConnA _ _ => Sys2Proof.Machine.execFConnA s
  | .fConnB _ _ => Sys2Proof.Machine.execFConnB s
  | .nop _ => Sys2Proof.Machine.execNop s
  | .rxByte b now => Sys2Proof.Machine.execRxByte b now s
  | .startCycle now => Sys2Proof.Machine.execStartCycle now s
  | .timeout code now => Sys2Proof.Machine.execTimeout code now s
  | .tick now => Sys2Proof.Machine.execTick now s
  | .setTarget arg _ => Sys2Proof.Machine.execSetTarget arg s
  | .setPower sym _ => Sys2Proof.Machine.execSetPower sym s
  | .setMode sym _ => Sys2Proof.Machine.execSetMode sym s
  | .setTemperature arg _ => Sys2Proof.Machine.execSetTemperature arg s
  | .setFan sym _ => Sys2Proof.Machine.execSetFan sym s
  | .setVane sym _ => Sys2Proof.Machine.execSetVane sym s
  | .setWidevane sym _ => Sys2Proof.Machine.execSetWidevane sym s
  | .linkDown _ => Sys2Proof.Machine.execLinkDown s
  | .reservedD _ => Sys2Proof.Machine.execReservedD s
  | .reservedE _ => Sys2Proof.Machine.execReservedE s
  | .reservedF _ => Sys2Proof.Machine.execReservedF s
  | .reset => Sys2Proof.Machine.execReset s

end Sys2Proof.Machine
end

