-- ==== Sys2Proof/Machine/Fetch.lean ====
section
/-! DEFINITION. How the next operation reaches the machine: the input that the platform presents (60_exceptions.md R291), and
how the host places an operation there (log 5, log 15). -/

namespace Sys2Proof.Machine

/-- 60 R291: the operation presented at the ports, and the state with that input consumed; none when nothing is presented. -/
def fetch (s : State) : Option (Instr × State) :=
  match s.port with
  | [] => none
  | x :: rest => some (decodeInput x, { s with port := rest })

/-- 00 R8, 70 R305: may this operation run: RESET in every state, an event under a well-formed configuration only. -/
def mayRun (i : Instr) (s : State) : Bool := configWf s.cfg || decide (i = .reset)

/-- An input before all those that are still to come. -/
def State.present (s : State) (x : Input) : State := { s with port := x :: s.port }

/-- The event RX_BYTE(b) @now, as presented at the port (30 R95). -/
def rxInput (b : Byte) (now : Time) : Input := .event (packEvent 0x1#4 (b.setWidth 32) now)

/-- The decoder with all of a frame but its last byte, which the next RX_BYTE brings (40 R115). -/
def Decoder.holding (d : Decoder) (frame : List Byte) : Decoder :=
  { d with
    fsm := .readingBody
    count := frame.length - 1
    len := frame.getD 4 0#8
    buf := memWriteAll d.buf 0 frame.dropLast }

/-- The decoder with the header of a frame but its length byte, which the next RX_BYTE brings (40 R112, R113). -/
def Decoder.awaitingLength (d : Decoder) (frame : List Byte) : Decoder :=
  { d with fsm := .readingHeader, count := 4, buf := memWriteAll d.buf 0 (frame.take 4) }

/-- A frame that the next step completes and runs. One longer than the buffer cannot be received (30 R81): of it the header
stands there, and the next step takes its length byte, which is oversize (40 R114; DESIGN CHOICE, log 15). -/
def State.presentFrame (s : State) (frame : List Byte) : State :=
  if frame.length ≤ s.cfg.bufCap then
    { s with dec := s.dec.holding frame }.present (rxInput (frame.getLastD 0#8) 0#32)
  else { s with dec := s.dec.awaitingLength frame }.present (rxInput (frame.getD 4 0#8) 0#32)

/-- The table word `w` of `nbits` bits where the next step runs it (see `decodeTableWord`). -/
def placeWord (s : State) (nbits w : Nat) : State :=
  if nbits = frameWordBits then s.presentFrame (tableFrame w)
  else if nbits = pinWordBits then (if w % 2 = 1 then s.present .resetPin else s)
  else s.present (.event (BitVec.ofNat 68 (w % 2 ^ nbits)))

end Sys2Proof.Machine
end

