-- ==== Sys2Proof/Machine/Step.lean ====
section
/-! DEFINITION. One step: the operation presented at the ports is consumed whole (60_exceptions.md R291) and run; with nothing
presented the block is idle and holds its state (R298). -/

namespace Sys2Proof.Machine

/-- The step. -/
def step (s : State) : Host.Outcome State Fault Refusal :=
  match fetch s with
  | none => .next s
  | some (i, s') => if mayRun i s then exec i s' else .refused .illFormedConfig

/-- The host's: the table word where the next step runs it. -/
def State.withFetchWord (s : State) (nbits w : Nat) : State := placeWord s nbits w

end Sys2Proof.Machine
end

