-- ==== Sys2Proof/Safety.lean ====
section
/-! DEFINITION. What counts as a safe run: the invariants of 10_state.md R41 (with 42 R189, R191, R192 and 44 R246), as decidable
predicates of the state, and the vocabulary in which statements speak of a run of bytes. -/

namespace Sys2Proof.Machine

/-- R41 (a), (b): where the decoder is, with the canonical form of the frame buffer and its addresses (20 R60). -/
abbrev decoderInv (s : State) : Prop :=
  (s.dec.fsm = .seeking ↔ s.dec.count = 0) ∧
  (s.dec.fsm = .readingHeader → 1 ≤ s.dec.count ∧ s.dec.count ≤ 4) ∧
  (s.dec.fsm = .readingBody →
    5 ≤ s.dec.count ∧ s.dec.count ≤ s.dec.len.toNat + 5 ∧ s.dec.len.toNat + 6 ≤ s.cfg.bufCap) ∧
  s.dec.buf.wf = true ∧ s.dec.buf.below s.cfg.bufCap = true

/-- 42 R189: the bound on `failures`; R182, R184, R192: a request in flight is not disabled and its timer is pending. -/
abbrev requestOk (timers : List Timer) (q : ReqCfg) (r : ReqState) : Prop :=
  r.failures.toNat ≤ max 1 q.maxFailures.toNat ∧
  (r.disabled = false → r.failures.toNat < max 1 q.maxFailures.toNat) ∧
  (r.awaiting = true → r.disabled = false ∧ timers.any (fun t => decide (t.code = q.code)) = true)

/-- R41 (c), 42 R191: one entry for each configured request, at most one of them in flight, each as `requestOk` says. -/
abbrev requestInv (s : State) : Prop :=
  s.sch.length = s.cfg.req.length ∧ s.sch.countP (·.awaiting) ≤ 1 ∧
  ∀ p ∈ s.cfg.req.zip s.sch, requestOk s.timers p.1 p.2

/-- R41 (f), (g), 44 R246: the anti-windup bound, and the adjusted range of the present target and direction. The last clause
of R41 (g), on `corrected`, is no invariant of every step: a SET_TARGET moves the range and leaves `corrected` (44 R245,
log 24). -/
abbrev loopInv (s : State) : Prop :=
  0 ≤ s.loop.integralMax ∧ -s.loop.integralMax ≤ s.loop.integral ∧ s.loop.integral ≤ s.loop.integralMax ∧
  (s.loop.adjustedMin, s.loop.adjustedMax) = adjustedRange s.cfg s.loop.heating s.loop.target

/-- 10 R35 to R38: the Fx registers of the loop. -/
def Loop.fxRegs (l : Loop) : List Int :=
  [l.target, l.adjustedMin, l.adjustedMax, l.kp, l.ki, l.kd, l.integralMax, l.integral, l.prevError, l.lastError,
   l.lastDerivative, l.lastOutput, l.corrected, l.sKp, l.sKi, l.sKd]

/-- 00 R12: every Fx register of the loop holds a value of `NW` bits. -/
abbrev loopFx (s : State) : Prop := ∀ x ∈ s.loop.fxRegs, fxInRange s.cfg x = true

/-- 10 R24 to R26: the Fx values of the Store. -/
def Store.fxRegs (st : Store) : List Int :=
  [st.cur.temperature, st.status.compressorFrequency, st.status.inputPower, st.status.kwh, st.status.runtimeHours,
   st.status.roomTemperature] ++ st.want.temperature.toList

/-- 00 R12: every Fx value of the Store is one of `NW` bits. -/
abbrev storeFx (s : State) : Prop := ∀ x ∈ s.st.fxRegs, fxInRange s.cfg x = true

/-- R41 (h): every gain inside its bounds. -/
abbrev gainsInBounds (s : State) : Prop :=
  (s.cfg.kpMin ≤ s.loop.kp ∧ s.loop.kp ≤ s.cfg.kpMax) ∧ (s.cfg.kiMin ≤ s.loop.ki ∧ s.loop.ki ≤ s.cfg.kiMax) ∧
  (s.cfg.kdMin ≤ s.loop.kd ∧ s.loop.kd ≤ s.cfg.kdMax)

/-- 20 R60 (b): the canonical form and the addresses of the timer bytes and the function table. -/
abbrev storeMemInv (s : State) : Prop :=
  s.st.timerRaw.wf = true ∧ s.st.timerRaw.below timerBytes = true ∧ s.st.func.wf = true ∧ s.st.func.below funcLen = true

/-- 92 D23: every request of the configuration has the default `on_response`. -/
abbrev defaultResponses (c : Config) : Prop := ∀ q ∈ c.req, q.onResponse = .identity

/-- 00 R8, 70 R302: every configuration that a RESET to come brings into force is well-formed. -/
abbrev replacementsWf (cs : List (Option Config)) : Prop := (cs.all fun x => x.all configWf) = true

/-- A safe state: a well-formed configuration now and after every RESET, and the invariants. -/
abbrev safe (s : State) : Prop :=
  configWf s.cfg = true ∧ replacementsWf s.newCfg ∧ decoderInv s ∧ requestInv s ∧ loopInv s ∧ loopFx s

/-- 43 R218: what the gate answers on the inputs that the next TICK supplies. -/
abbrev gateNow (s : State) : GateAnswer :=
  gate s.cfg s.st.modeNow s.loop.active s.st.status.roomTemperature s.loop.target

/-- Operations run one after the other, up to the first that stops. -/
def execAll : List Instr → State → Host.Outcome State Fault Refusal
  | [], s => .next s
  | i :: is, s =>
    match exec i s with
    | .next t => execAll is t
    | .fault r => .fault r
    | .refused r => .refused r

/-- 30 R98: a stream of received bytes, each with its time, one RX_BYTE each. -/
def feed (bytes : List (Byte × Time)) (s : State) : Host.Outcome State Fault Refusal :=
  execAll (bytes.map fun p => .rxByte p.1 p.2) s

/-- TICKs at the given times, one after the other. -/
def tickAt (times : List Time) (s : State) : Host.Outcome State Fault Refusal := execAll (times.map .tick) s

end Sys2Proof.Machine
end

