-- ==== Sys2Proof/Certificates/Slice0/Obligations.lean ====
section
/-! DEFINITION. The statements for the provers. Each docstring names the rule of spec/ that its statement formalises; every
statement holds for every configuration, since the configuration is a field of the state (log 1). A result written as one
record `{ s with … }` is at once the instruction's effect and its frame: every field not named is unchanged. -/

open Sys2Proof Sys2Proof.Machine

/-! ### Encoding -/

/-- Decode and encode agree, for every well-formed operation and every value of its operands (30 R80 to R87, R95). -/
def Obligations.DecodeOfEncodeIsTheOperation : Prop :=
  ∀ i : Instr, i.wf = true → decode (encode i) = .ok i

/-- 40 R117, 30 R84: the check of a frame in the buffer, in unbounded arithmetic: the sum of the `L + 5` bytes before the
checksum, taken from 0xFC modulo 256, is the checksum byte; equivalently all `L + 6` bytes sum to 0xFC modulo 256. -/
def Obligations.ChecksumIsTheSumFromTheConstant : Prop :=
  (∀ d : Decoder, verifyChecksum d = true ↔
    ((0xFC : Int) - (((memReadAll d.buf 0 (d.len.toNat + 5)).map BitVec.toNat).sum : Nat)) % 256 =
      ((memRead d.buf (d.len.toNat + 5)).toNat : Int)) ∧
  (∀ d : Decoder, verifyChecksum d = true ↔
    ((memReadAll d.buf 0 (d.len.toNat + 6)).map BitVec.toNat).sum % 256 = 0xFC)

/-- 30 R85 (b): a frame with one byte changed, other than its start byte and its length byte, is rejected for its checksum. -/
def Obligations.SingleByteMutationIsRejected : Prop :=
  ∀ (cmd : Byte) (f : Frame) (k : Nat) (v : Byte) (now : Time), f.data.length ≤ 255 → k ≠ 0 → k ≠ 4 →
    k < f.data.length + 6 → (encodeFrame cmd f)[k]? ≠ some v →
    ∃ r, decodeFrame ((encodeFrame cmd f).set k v) now = .error (.badChecksum r)

/-- A few encodings written out, and what they stand for: the frames from 30 R87 and R94; of the events R95 gives the
selectors and the widths of the fields, and their places in one 68-bit word (op in bits 3..0, arg in bits 35..4, now in bits
67..36) are the model's packing (DESIGN CHOICE, log 5). -/
def Obligations.WrittenEncodingsDecode : Prop :=
  (∀ now, decodeFrame [0xFC#8, 0x62#8, 0x01#8, 0x30#8, 0x10#8, 0x02#8, 0x00#8, 0x00#8, 0x01#8, 0x00#8, 0x00#8, 0x00#8,
      0x00#8, 0x00#8, 0x00#8, 0x00#8, 0x00#8, 0x00#8, 0x00#8, 0x00#8, 0x00#8, 0x5A#8] now =
    .ok (.fSettings ⟨0x01#8, 0x30#8, [0x02#8, 0x00#8, 0x00#8, 0x01#8, 0x00#8, 0x00#8, 0x00#8, 0x00#8, 0x00#8, 0x00#8,
      0x00#8, 0x00#8, 0x00#8, 0x00#8, 0x00#8, 0x00#8]⟩ now)) ∧
  (∀ now, decodeFrame [0xFC#8, 0x61#8, 0x01#8, 0x30#8, 0x00#8, 0x6E#8] now = .ok (.fAck ⟨0x01#8, 0x30#8, []⟩ now)) ∧
  (∀ now, decodeFrame [0xFC#8, 0x7A#8, 0x01#8, 0x30#8, 0x00#8, 0x55#8] now = .ok (.fConnA ⟨0x01#8, 0x30#8, []⟩ now)) ∧
  decodeInput (.event 0x0000000000001500005#68) = .setTarget 0x00150000#32 0#32 ∧
  decodeInput (.event 0x000005DC000000023#68) = .timeout 0x02#8 1500#32 ∧
  decodeInput (.event 0x00000BB8000000004#68) = .tick 3000#32 ∧
  decodeInput .resetPin = .reset

/-! ### The step -/

/-- 60 R291, R298, 00 R8: with nothing presented the block is idle; an input presented under a well-formed configuration is
consumed and its operation run; RESET is run under any configuration, any other operation is refused under one that is not
well-formed. The list of inputs to come is the model's (log 5). -/
def Obligations.StepRunsThePresentedOperation : Prop :=
  (∀ s : State, s.port = [] → step s = .next s) ∧
  (∀ (s : State) (x : Input) (rest : List Input), s.port = x :: rest → configWf s.cfg = true →
    step s = exec (decodeInput x) { s with port := rest }) ∧
  (∀ (s : State) (rest : List Input), s.port = .resetPin :: rest → step s = exec .reset { s with port := rest }) ∧
  (∀ (s : State) (w : BitVec 68) (rest : List Input), s.port = .event w :: rest → configWf s.cfg = false →
    step s = .refused .illFormedConfig)

/-- 40 R116, R125, R128: the byte that completes a frame of a row of the table runs that row's operation within the same
event, with the decoder back in `Seeking` and FRAME_ACCEPTED emitted before it. -/
def Obligations.LastByteRunsTheFrame : Prop :=
  ∀ (s : State) (b : Byte) (now : Time) (i : Instr),
    s.dec.fsm = .readingBody → s.dec.count = s.dec.len.toNat + 5 → s.dec.count < s.cfg.bufCap →
    decodeFrame (memReadAll (memWrite s.dec.buf s.dec.count b) 0 (s.dec.len.toNat + 6)) now = .ok i →
    exec (.rxByte b now) s =
      exec i { s with
        dec := { s.dec with fsm := .seeking, count := 0, buf := memWrite s.dec.buf s.dec.count b }
        out := s.out ++ [.frameAccepted (memRead (memWrite s.dec.buf s.dec.count b) 1) s.dec.len] }

/-! ### The decoder -/

/-- The decoder with one more byte stored (40 R112, R115). -/
abbrev storedDec (s : State) (b : Byte) : Decoder :=
  { s.dec with buf := memWrite s.dec.buf s.dec.count b, count := s.dec.count + 1 }

/-- The decoder back in `Seeking` after a byte has been stored. -/
abbrev droppedDec (s : State) (b : Byte) : Decoder :=
  { s.dec with buf := memWrite s.dec.buf s.dec.count b, count := 0, fsm := .seeking }

/-- 40 R127: every transition of the decoder; with it R119 and 60 R271 (a bad checksum has no effect but its ERR) and R272. -/
def Obligations.DecoderTransitions : Prop :=
  (∀ (s : State) (b : Byte) (now : Time), s.dec.fsm = .seeking → b ≠ 0xFC#8 → exec (.rxByte b now) s = .next s) ∧
  (∀ (s : State) (now : Time), s.dec.fsm = .seeking →
    exec (.rxByte 0xFC#8 now) s =
      .next { s with dec := { s.dec with fsm := .readingHeader, count := 1, buf := memWrite s.dec.buf 0 0xFC#8 } }) ∧
  (∀ (s : State) (b : Byte) (now : Time), 6 ≤ s.cfg.bufCap → s.dec.fsm = .readingHeader → s.dec.count < 4 →
    exec (.rxByte b now) s = .next { s with dec := storedDec s b }) ∧
  (∀ (s : State) (b : Byte) (now : Time), 6 ≤ s.cfg.bufCap → s.dec.fsm = .readingHeader → s.dec.count = 4 →
    b.toNat + 6 ≤ s.cfg.bufCap →
    exec (.rxByte b now) s = .next { s with dec := { storedDec s b with len := b, fsm := .readingBody } }) ∧
  (∀ (s : State) (b : Byte) (now : Time), 6 ≤ s.cfg.bufCap → s.dec.fsm = .readingHeader → s.dec.count = 4 →
    s.cfg.bufCap < b.toNat + 6 →
    exec (.rxByte b now) s = .next { s with dec := droppedDec s b, out := s.out ++ [.err 2 b.toNat] }) ∧
  (∀ (s : State) (b : Byte) (now : Time), s.dec.fsm = .readingBody → s.dec.count + 1 < s.dec.len.toNat + 6 →
    s.dec.count + 1 < s.cfg.bufCap → exec (.rxByte b now) s = .next { s with dec := storedDec s b }) ∧
  (∀ (s : State) (b : Byte) (now : Time), s.dec.fsm = .readingBody → s.dec.count + 1 = s.dec.len.toNat + 6 →
    s.dec.count < s.cfg.bufCap → verifyChecksum (storedDec s b) = true →
    exec (.rxByte b now) s =
      dispatch now { s with
        dec := droppedDec s b
        out := s.out ++ [.frameAccepted (memRead (storedDec s b).buf 1) s.dec.len] }) ∧
  (∀ (s : State) (b : Byte) (now : Time), s.dec.buf.wf = true → s.dec.fsm = .readingBody →
    s.dec.count + 1 = s.dec.len.toNat + 6 → s.dec.count < s.cfg.bufCap → verifyChecksum (storedDec s b) = false →
    exec (.rxByte b now) s = .next { s with dec := droppedDec s b, out := s.out ++ [.err 1 b.toNat] }) ∧
  (∀ (s : State) (b : Byte) (now : Time), s.dec.fsm = .readingBody → s.dec.count + 1 < s.dec.len.toNat + 6 →
    s.dec.count < s.cfg.bufCap → s.cfg.bufCap ≤ s.dec.count + 1 →
    exec (.rxByte b now) s = .next { s with dec := droppedDec s b, out := s.out ++ [.err 3 (s.dec.count + 1)] })

/-- 30 R88: which encodings are unknown, and what a valid frame of one does: no Store effect and no error; a 0x62 frame with
`L ≥ 1` still notifies the scheduler, nothing else happens. Subtype 0x09 is known. (The Store clause is for the default
`on_response`: a notified scheduler otherwise runs the configured one, 42 R185.) -/
def Obligations.UnknownFramesAreIgnored : Prop :=
  (∀ (cmd : Byte) (data : List Byte), (∃ u, frameTypeOf cmd data = .error u) ↔
    (cmd ∉ [0x61#8, 0x62#8, 0x7A#8, 0x7B#8] ∨ (cmd = 0x62#8 ∧ data = []) ∨
      (cmd = 0x62#8 ∧ ∃ x xs, data = x :: xs ∧ x ∉ [0x02#8, 0x03#8, 0x05#8, 0x06#8, 0x09#8, 0x20#8, 0x22#8]))) ∧
  (∀ (s : State) (now : Time) (cmd : Byte), memRead s.dec.buf 1 = cmd →
    cmd ∉ [0x61#8, 0x62#8, 0x7A#8, 0x7B#8] → dispatch now s = .next s) ∧
  (∀ (s : State) (now : Time), memRead s.dec.buf 1 = 0x62#8 → s.dec.len = 0x00#8 → dispatch now s = .next s) ∧
  (∀ (s : State) (now : Time) (sub : Byte), memRead s.dec.buf 1 = 0x62#8 → s.dec.len ≠ 0x00#8 →
    memRead s.dec.buf 5 = sub → sub ∉ [0x02#8, 0x03#8, 0x05#8, 0x06#8, 0x09#8, 0x20#8, 0x22#8] →
    dispatch now s = .next (processResponse sub now s)) ∧
  (∀ (s : State) (now : Time) (sub : Byte),
    (defaultResponses s.cfg → (processResponse sub now s).st = s.st) ∧
    ∃ es, (processResponse sub now s).out = s.out ++ es ∧ ∀ code info, OutEvent.err code info ∉ es) ∧
  (∀ data : List Byte, frameTypeOf 0x62#8 (0x09#8 :: data) = .ok .standby)

/-- 40 R118: from a state that meets the decoder's invariant the overflow guard never fires. -/
def Obligations.OverflowGuardNeverFires : Prop :=
  ∀ (s t : State) (b : Byte) (now : Time), decoderInv s → exec (.rxByte b now) s = .next t →
    ∃ es, t.out = s.out ++ es ∧ ∀ info, OutEvent.err 3 info ∉ es

/-- 40 R122: resynchronisation. From `Seeking`, garbage with no start byte changes nothing; a valid frame that follows it is
framed whole, gives exactly one FRAME_ACCEPTED and one dispatch (at the time of its last byte), and leaves the decoder in
`Seeking`. Every byte has a time of its own. -/
def Obligations.GarbageThenOneFrame : Prop :=
  ∀ (s : State) (garbage front : List (Byte × Time)) (last : Byte) (now : Time) (cmd : Byte) (f : Frame),
    s.dec.fsm = .seeking → s.dec.buf.wf = true → (∀ p ∈ garbage, p.1 ≠ 0xFC#8) →
    f.data.length ≤ 255 → f.data.length + 6 ≤ s.cfg.bufCap →
    front.map Prod.fst ++ [last] = encodeFrame cmd f →
    feed garbage s = .next s ∧
    ∃ d : Decoder, d.fsm = .seeking ∧ d.count = 0 ∧ d.len = BitVec.ofNat 8 f.data.length ∧ memRead d.buf 1 = cmd ∧
      d.frame = f ∧
      feed (garbage ++ front ++ [(last, now)]) s =
        dispatch now { s with dec := d, out := s.out ++ [.frameAccepted cmd (BitVec.ofNat 8 f.data.length)] } ∧
      ∃ (t : State) (es : List OutEvent), feed (garbage ++ front ++ [(last, now)]) s = .next t ∧ t.dec = d ∧
        t.out = s.out ++ [.frameAccepted cmd (BitVec.ofNat 8 f.data.length)] ++ es ∧
        ∀ c l, OutEvent.frameAccepted c l ∉ es

/-! ### The frame types -/

/-- 00 R12, 20 R62, 30 R90, R91, R93, R95: saturation to `NW` bits and the arithmetic on raw values; and what the words of
the rules stand for: `data[i]` where the frame has it, the signed byte, a table entry with entry 0 as the fallback, an
unsigned value over a divisor that is not 0, and an Fx operand, which is sign-extended from 32 bits. Below 32 bits of `NW` an
operand with no place in `NW` bits has a free value, the model's choice (log 11), which is one of `NW` bits. -/
def Obligations.OperandValuesDecode : Prop :=
  (∀ (c : Config) (z : Int), sat c z = max (-2 ^ (c.nw - 1)) (min z (2 ^ (c.nw - 1) - 1))) ∧
  (∀ (c : Config) (z : Int), fxInRange c z = true ↔ -2 ^ (c.nw - 1) ≤ z ∧ z < 2 ^ (c.nw - 1)) ∧
  (∀ (c : Config) (a b : Int), fxAdd c a b = sat c (a + b) ∧ fxSub c a b = sat c (a - b) ∧
    fxMul c a b = sat c (Int.fdiv (a * b) (c.scale : Int))) ∧
  (∀ (n : Nat) (data : List Byte) (i : Nat) (b : Byte), data[i]? = some b → dataAt n data i = b) ∧
  (∀ (c : Config) (b : Byte), signedHalf c b = sat c (Int.fdiv (((b.toNat : Int) - 128) * (c.scale : Int)) 2)) ∧
  (∀ (c : Config) (table : List Int) (b : Byte) (n : Nat) (t : Int),
    table[b.toNat]? = some t ∨ (table[b.toNat]? = none ∧ table[0]? = some t) →
    tableTemp c table b n = sat c (t * (c.scale : Int))) ∧
  (∀ (c : Config) (v d : Nat), 0 < d → fxUnsigned c v d = sat c (Int.fdiv ((v : Int) * (c.scale : Int)) (d : Int))) ∧
  (∀ (c : Config) (arg : BitVec 32), 32 ≤ c.nw → fxOperand c arg = arg.toInt) ∧
  (∀ (c : Config) (arg : BitVec 32), -2 ^ (c.nw - 1) ≤ arg.toInt → arg.toInt < 2 ^ (c.nw - 1) →
    fxOperand c arg = arg.toInt) ∧
  (∀ (c : Config) (arg : BitVec 32), fxInRange c (fxOperand c arg) = true)

/-- The settings after an acknowledgement: every `Some` of `want` over `cur`. -/
abbrev ackedSettings (st : Store) : Settings where
  power := match st.want.power with | some v => v | none => st.cur.power
  mode := match st.want.mode with | some v => v | none => st.cur.mode
  temperature := match st.want.temperature with | some v => v | none => st.cur.temperature
  fan := match st.want.fan with | some v => v | none => st.cur.fan
  vane := match st.want.vane with | some v => v | none => st.cur.vane
  wideVane := match st.want.wideVane with | some v => v | none => st.cur.wideVane

/-- 41 R144: F_ACK merges `want` into `cur` and clears it; afterwards the difference mask is zero. (`settingsEqual` is spelt
out by SettingsFrameOverwritesCurrent.) -/
def Obligations.AckMergesWantIntoCurrent : Prop :=
  ∀ (s : State) (f : Frame) (now : Time),
    exec (.fAck f now) s =
      .next { s with
        st := { s.st with cur := ackedSettings s.st, want := ⟨none, none, none, none, none, none⟩ }
        out := s.out ++ if settingsEqual s.cfg s.st.cur (ackedSettings s.st) then [] else [.settingsChanged] } ∧
    diffMask s.cfg { s.st with cur := ackedSettings s.st, want := ⟨none, none, none, none, none, none⟩ } = (0x00#8, 0x00#8)

/-- 41 R142, R146, R158, 00 R13: F_SETTINGS: too short, it only notifies the scheduler; else it overwrites `cur` with what
its payload decodes to, and the first one copies that to `want`. Two settings are equal when the enumerations are identical
and the temperatures within EPS. (The counter `freeCtr` is the model's, log 9.) -/
def Obligations.SettingsFrameOverwritesCurrent : Prop :=
  (∀ (c : Config) (a b : Settings), settingsEqual c a b = true ↔
    a.power = b.power ∧ a.mode = b.mode ∧ a.fan = b.fan ∧ a.vane = b.vane ∧ a.wideVane = b.wideVane ∧
    ((a.temperature - b.temperature).natAbs : Int) ≤ c.eps) ∧
  ∀ (s : State) (f : Frame) (now : Time) (new : Settings), new = settingsOf s.cfg s.freeCtr f.data →
    (f.data.length < s.cfg.pmap.setMinLen → exec (.fSettings f now) s = .next (processResponse 0x02#8 now s)) ∧
    (s.cfg.pmap.setMinLen ≤ f.data.length → exec (.fSettings f now) s =
      .next (processResponse 0x02#8 now
        { s with
          st := { s.st with
            cur := new
            want := if s.st.firstRun then
                ⟨some new.power, some new.mode, some new.temperature, some new.fan, some new.vane, some new.wideVane⟩
              else s.st.want
            firstRun := false }
          out := s.out ++
            if s.st.firstRun || !settingsEqual s.cfg s.st.cur new then [.settingsChanged] else []
          freeCtr := s.freeCtr + 1 }))

/-- 41 R146, R147: what the payload of a settings frame decodes to, its bytes being where the payload map says. -/
def Obligations.SettingsPayloadDecodes : Prop :=
  ∀ (c : Config) (n : Nat) (data : List Byte) (bp bm bt bf bv bw : Byte),
    data[c.pmap.setPower]? = some bp → data[c.pmap.setMode]? = some bm → data[c.pmap.setTemp]? = some bt →
    data[c.pmap.setFan]? = some bf → data[c.pmap.setVane]? = some bv → data[c.pmap.setWvane]? = some bw →
    (settingsOf c n data).power = powerOfIdx (decEnum 2 c.enums.power bp) ∧
    (settingsOf c n data).mode = modeOfIdx (decEnum 5 c.enums.mode
      (if c.pmap.setIseeFold = true ∧ 8 < bm.toNat then bm - 0x08#8 else bm)) ∧
    (settingsOf c n data).fan = fin6OfIdx (decEnum 6 c.enums.fan bf) ∧
    (settingsOf c n data).vane = fin7OfIdx (decEnum 7 c.enums.vane bv) ∧
    (settingsOf c n data).wideVane = fin7OfIdx (decEnum 7 c.enums.wideVane (bw &&& 0x0F#8)) ∧
    (∀ e, data[c.pmap.setTempExt]? = some e → e ≠ 0x00#8 →
      (settingsOf c n data).temperature = sat c (Int.fdiv (((e.toNat : Int) - 128) * (c.scale : Int)) 2)) ∧
    ((∀ e, data[c.pmap.setTempExt]? = some e → e = 0x00#8) →
      (∀ t, c.pmap.tempTable[bt.toNat]? = some t →
        (settingsOf c n data).temperature = sat c (t * (c.scale : Int))) ∧
      (∀ t, c.pmap.tempTable[bt.toNat]? = none → c.pmap.tempTable[0]? = some t →
        (settingsOf c n data).temperature = sat c (t * (c.scale : Int))))

/-- 30 R92, 41 R140: the enumeration decode is the least index with the wire code, and 0 when there is none. -/
def Obligations.EnumDecodeIsTheLeastIndex : Prop :=
  ∀ (n : Nat) (table : List Byte) (code : Byte), table.length = n →
    (∀ i, table[i]? = some code → (∀ j, j < i → table[j]? ≠ some code) → decEnum n table code = i) ∧
    (code ∉ table → decEnum n table code = 0)

/-- 41 R148: F_ROOMTEMP: too short, it only notifies the scheduler. Else the signed byte, present and not zero, gives the
temperature and sets the latch; otherwise the table does and the latch stays. The runtime is taken when its three bytes are
present. (`dataAt` is the frame's byte where it has one, OperandValuesDecode; elsewhere a free value, the model's choice, log 9,
and so is the counter `freeCtr` that goes up with it. `statusEqual` is spelt out by StatusFrame.) -/
def Obligations.RoomTemperatureFrame : Prop :=
  ∀ (s : State) (f : Frame) (now : Time) (room hours : Int) (ext : Bool) (status : Status),
    ((∃ e, f.data[s.cfg.pmap.rtExt]? = some e ∧ e ≠ 0x00#8 ∧
        room = sat s.cfg (Int.fdiv (((e.toNat : Int) - 128) * (s.cfg.scale : Int)) 2) ∧ ext = true) ∨
      ((∀ e, f.data[s.cfg.pmap.rtExt]? = some e → e = 0x00#8) ∧
        room = tableTemp s.cfg s.cfg.pmap.roomTempTable (dataAt s.freeCtr f.data s.cfg.pmap.rtCode) s.freeCtr ∧
        ext = s.st.extTempMode)) →
    ((∃ a b c, f.data[s.cfg.pmap.rtRuntime]? = some a ∧ f.data[s.cfg.pmap.rtRuntime + 1]? = some b ∧
        f.data[s.cfg.pmap.rtRuntime + 2]? = some c ∧
        hours = fxUnsigned s.cfg (a.toNat * 65536 + b.toNat * 256 + c.toNat) s.cfg.pmap.rtRuntimeDiv) ∨
      (f.data.length ≤ s.cfg.pmap.rtRuntime + 2 ∧ hours = s.st.status.runtimeHours)) →
    status = { s.st.status with roomTemperature := room, runtimeHours := hours } →
    (f.data.length < s.cfg.pmap.rtMinLen → exec (.fRoomtemp f now) s = .next (processResponse 0x03#8 now s)) ∧
    (s.cfg.pmap.rtMinLen ≤ f.data.length → exec (.fRoomtemp f now) s =
      .next (processResponse 0x03#8 now
        { s with
          st := { s.st with status := status, extTempMode := ext, haveRoomTemp := true }
          out := s.out ++ if statusEqual s.cfg s.st.status status then [] else [.statusChanged]
          freeCtr := s.freeCtr + 1 }))

/-- 41 R152, R158, 00 R13: F_STATUS: too short, it only notifies the scheduler; else the frequency and the operating byte, and
the input power and the energy when their bytes are present; the other fields of the status stay. Two statuses are equal when
`operating` is identical and every Fx field within EPS. (A byte the frame lacks is a free value, and the counter `freeCtr`
goes up: the model's choice, log 9.) -/
def Obligations.StatusFrame : Prop :=
  (∀ (c : Config) (a b : Status), statusEqual c a b = true ↔
    a.operating = b.operating ∧ ((a.compressorFrequency - b.compressorFrequency).natAbs : Int) ≤ c.eps ∧
    ((a.inputPower - b.inputPower).natAbs : Int) ≤ c.eps ∧ ((a.kwh - b.kwh).natAbs : Int) ≤ c.eps ∧
    ((a.runtimeHours - b.runtimeHours).natAbs : Int) ≤ c.eps ∧
    ((a.roomTemperature - b.roomTemperature).natAbs : Int) ≤ c.eps) ∧
  ∀ (s : State) (f : Frame) (now : Time) (power energy : Int) (status : Status),
    ((∃ a b, f.data[s.cfg.pmap.staPower]? = some a ∧ f.data[s.cfg.pmap.staPower + 1]? = some b ∧
        power = fxUnsigned s.cfg (a.toNat * 256 + b.toNat) 1) ∨
      (f.data.length ≤ s.cfg.pmap.staPower + 1 ∧ power = s.st.status.inputPower)) →
    ((∃ a b, f.data[s.cfg.pmap.staKwh]? = some a ∧ f.data[s.cfg.pmap.staKwh + 1]? = some b ∧
        energy = fxUnsigned s.cfg (a.toNat * 256 + b.toNat) s.cfg.pmap.staKwhDiv) ∨
      (f.data.length ≤ s.cfg.pmap.staKwh + 1 ∧ energy = s.st.status.kwh)) →
    status = { s.st.status with
      compressorFrequency := fxUnsigned s.cfg (dataAt s.freeCtr f.data s.cfg.pmap.staFreq).toNat 1
      operating := decide (dataAt s.freeCtr f.data s.cfg.pmap.staOperating ≠ 0x00#8)
      inputPower := power
      kwh := energy } →
    (f.data.length < s.cfg.pmap.staMinLen → exec (.fStatus f now) s = .next (processResponse 0x06#8 now s)) ∧
    (s.cfg.pmap.staMinLen ≤ f.data.length → exec (.fStatus f now) s =
      .next (processResponse 0x06#8 now
        { s with
          st := { s.st with status := status }
          out := s.out ++ if statusEqual s.cfg s.st.status status then [] else [.statusChanged]
          freeCtr := s.freeCtr + 1 }))

/-- 41 R150: F_TIMERS: too short, it only notifies the scheduler; else it stores five payload bytes and no other byte of any
memory. (A byte the frame lacks is a free value, and the counter `freeCtr` goes up: the model's choice, log 9.) -/
def Obligations.TimersFrameStoresFiveBytes : Prop :=
  ∀ (s : State) (f : Frame) (now : Time), s.st.timerRaw.wf = true →
    (f.data.length < s.cfg.pmap.tmMinLen → exec (.fTimers f now) s = .next (processResponse 0x05#8 now s)) ∧
    (s.cfg.pmap.tmMinLen ≤ f.data.length → ∃ m : Memory,
      exec (.fTimers f now) s =
        .next (processResponse 0x05#8 now { s with st := { s.st with timerRaw := m }, freeCtr := s.freeCtr + 1 }) ∧
      ∀ a, memRead m a =
        if a < 5 then dataAt s.freeCtr f.data (s.cfg.pmap.tmFirst + a) else memRead s.st.timerRaw a)

/-- 41 R155, R156: too short, either frame only notifies the scheduler; else F_FUNC_LO stores fifteen payload bytes at
addresses 0 to 14 of the function table, F_FUNC_HI at 15 to 29, and no other byte of any memory. (A byte the frame lacks is a
free value, and the counter `freeCtr` goes up: the model's choice, log 9.) -/
def Obligations.FunctionTableFramesStoreAHalf : Prop :=
  ∀ (s : State) (f : Frame) (now : Time), s.st.func.wf = true →
    (f.data.length < s.cfg.pmap.fnMinLen →
      exec (.fFuncLo f now) s = .next (processResponse 0x20#8 now s) ∧
      exec (.fFuncHi f now) s = .next (processResponse 0x22#8 now s)) ∧
    (s.cfg.pmap.fnMinLen ≤ f.data.length → ∃ m : Memory,
      exec (.fFuncLo f now) s =
        .next (processResponse 0x20#8 now { s with st := { s.st with func := m }, freeCtr := s.freeCtr + 1 }) ∧
      ∀ a, memRead m a =
        if a < 15 then dataAt s.freeCtr f.data (s.cfg.pmap.fnFirst + a) else memRead s.st.func a) ∧
    (s.cfg.pmap.fnMinLen ≤ f.data.length → ∃ m : Memory,
      exec (.fFuncHi f now) s =
        .next (processResponse 0x22#8 now { s with st := { s.st with func := m }, freeCtr := s.freeCtr + 1 }) ∧
      ∀ a, memRead m a =
        if 15 ≤ a ∧ a < 30 then dataAt s.freeCtr f.data (s.cfg.pmap.fnFirst + (a - 15)) else memRead s.st.func a)

/-- 41 R154: F_STANDBY has no Store effect and emits nothing of its own; the scheduler is notified. -/
def Obligations.StandbyFrameOnlyNotifies : Prop :=
  ∀ (s : State) (f : Frame) (now : Time), exec (.fStandby f now) s = .next (processResponse 0x09#8 now s)

/-- 41 R157: either connect acknowledgement sets `connected` and does nothing else, whatever its payload. -/
def Obligations.ConnectFramesMarkTheLink : Prop :=
  ∀ (s : State) (f : Frame) (now : Time),
    exec (.fConnA f now) s = .next { s with st := { s.st with connected := true } } ∧
    exec (.fConnB f now) s = .next { s with st := { s.st with connected := true } }

/-! ### The scheduler -/

/-- 42 R185, R188: a response that matches no request does nothing; one that matches clears `awaiting` and `failures`, runs
`on_response`, by default the identity, and emits RESP_SEEN, and the scan goes on only if that request was in flight. -/
def Obligations.ResponseIsMarkedAndMovesOn : Prop :=
  (∀ (c : Config) (st : Store), onResponseOf c .identity st = st) ∧
  (∀ (s : State) (code : Byte) (now : Time), (∀ q ∈ s.cfg.req, q.code ≠ code) → processResponse code now s = s) ∧
  (∀ (s m : State) (code : Byte) (now : Time) (i : Nat) (q : ReqCfg) (r : ReqState),
    reqCodesWf s.cfg = true → s.cfg.req[i]? = some q → q.code = code → s.sch[i]? = some r →
    m = { s with
      sch := s.sch.set i { r with awaiting := false, failures := 0x00#8 }
      st := onResponseOf s.cfg q.onResponse s.st
      out := s.out ++ [.respSeen code] } →
    (r.awaiting = true → processResponse code now s = sendNextAfter code now m) ∧
    (r.awaiting = false → processResponse code now s = m))

/-- 42 R181, R182, R184: the scan starts at the list's head for the sentinel and (the spec's own arm) for a code of no entry,
else after the entry; it sends the first request that is not disabled, may be sent and has waited its interval, and ends the
round if there is none. The default `can_send` always holds (00 R7), `whenConnected` reads `connected`, the one other predicate
the spec's examples name; these tags are the model's form of the two functions (log 4). -/
def Obligations.ScanSendsTheFirstSendable : Prop :=
  (∀ st : Store, canSendHolds .always st = true ∧ canSendHolds .whenConnected st = st.connected) ∧
  (∀ (c : Config) (code : Byte), (∀ q ∈ c.req, q.code ≠ code) → startIndex c code = 0) ∧
  (∀ c : Config, startIndex c 0x00#8 = 0) ∧
  (∀ (c : Config) (i : Nat) (q : ReqCfg), reqCodesWf c = true → c.req[i]? = some q → startIndex c q.code = i + 1) ∧
  (∀ (s : State) (now : Time) (i : Nat), sendable s now i = true ↔
    ∃ q r, s.cfg.req[i]? = some q ∧ s.sch[i]? = some r ∧ r.disabled = false ∧ canSendHolds q.canSend s.st = true ∧
      q.minIntervalMs.toNat ≤ (now - r.lastSentAt).toNat) ∧
  (∀ (s : State) (prev : Byte) (now : Time) (i : Nat) (q : ReqCfg) (r : ReqState),
    s.cfg.req[i]? = some q → s.sch[i]? = some r → startIndex s.cfg prev ≤ i → sendable s now i = true →
    (∀ j, startIndex s.cfg prev ≤ j → j < i → sendable s now j = false) →
    sendNextAfter prev now s =
      { s with
        sch := s.sch.set i { r with awaiting := true, lastSentAt := now }
        timers := s.timers ++ [⟨q.code, now, q.softTimeoutMs⟩]
        out := s.out ++ [.txRequest q.code, .armTimer q.code q.softTimeoutMs] }) ∧
  (∀ (s : State) (prev : Byte) (now : Time),
    (∀ j, startIndex s.cfg prev ≤ j → j < s.cfg.req.length → sendable s now j = false) →
    sendNextAfter prev now s = { s with out := s.out ++ [.cycleDone] })

/-- 42 R190: START_CYCLE is ignored while a request is in flight (a guard that the spec calls its own), and otherwise scans from
the head of the list. -/
def Obligations.StartCycleScansUnlessInFlight : Prop :=
  ∀ (s : State) (now : Time),
    ((∃ r ∈ s.sch, r.awaiting = true) → exec (.startCycle now) s = .next s) ∧
    ((∀ r ∈ s.sch, r.awaiting = false) → exec (.startCycle now) s = .next (sendNextAfter 0x00#8 now s))

/-- 42 R186, R187 (that `awaiting` is cleared is the spec's inference there): a pending TIMEOUT removes the entry of its code that was armed first. For a request in flight it raises
NonResponse, counts the failure, disables at `max_failures`, clears `awaiting` and moves the cycle on; otherwise the timer
is stale and nothing else happens. -/
def Obligations.TimeoutOfAPendingTimer : Prop :=
  ∀ (s : State) (code : Byte) (now : Time) (pre post : List Timer) (tm : Timer),
    s.timers = pre ++ tm :: post → tm.code = code → (∀ x ∈ pre, x.code ≠ code) →
    ((∀ q ∈ s.cfg.req, q.code ≠ code) → exec (.timeout code now) s = .next { s with timers := pre ++ post }) ∧
    (∀ (i : Nat) (q : ReqCfg) (r : ReqState), reqCodesWf s.cfg = true → s.cfg.req[i]? = some q → q.code = code →
      s.sch[i]? = some r →
      (r.awaiting = false → exec (.timeout code now) s = .next { s with timers := pre ++ post }) ∧
      (r.awaiting = true → r.failures.toNat < 255 →
        exec (.timeout code now) s =
          .next (sendNextAfter code now
            { s with
              timers := pre ++ post
              out := s.out ++ [.err 4 code.toNat]
              sch := s.sch.set i
                ⟨r.disabled || decide (q.maxFailures.toNat ≤ r.failures.toNat + 1), false, r.failures + 1#8,
                  r.lastSentAt⟩ })))

/-- 70 R303, the model's choice where 42 R186 gives no step (log 7): a TIMEOUT with no pending entry has the effect of R187
without the removal. For a code of no request, and for a request that is not in flight, it does nothing; for a request in
flight it raises NonResponse, counts the failure, disables at `max_failures`, clears `awaiting` and moves the cycle on. -/
def Obligations.TimeoutWithNoPendingTimer : Prop :=
  ∀ (s : State) (code : Byte) (now : Time), (∀ x ∈ s.timers, x.code ≠ code) →
    ((∀ q ∈ s.cfg.req, q.code ≠ code) → exec (.timeout code now) s = .next s) ∧
    (∀ (i : Nat) (q : ReqCfg) (r : ReqState), reqCodesWf s.cfg = true → s.cfg.req[i]? = some q → q.code = code →
      s.sch[i]? = some r →
      (r.awaiting = false → exec (.timeout code now) s = .next s) ∧
      (r.awaiting = true → r.failures.toNat < 255 →
        exec (.timeout code now) s =
          .next (sendNextAfter code now
            { s with
              out := s.out ++ [.err 4 code.toNat]
              sch := s.sch.set i
                ⟨r.disabled || decide (q.maxFailures.toNat ≤ r.failures.toNat + 1), false, r.failures + 1#8,
                  r.lastSentAt⟩ })))

/-! ### The loop -/

/-- 44 R231: before any room temperature a TICK only records its time. -/
def Obligations.TickBeforeRoomTemperature : Prop :=
  ∀ (s : State) (now : Time), s.st.haveRoomTemp = false →
    exec (.tick now) s = .next { s with loop := { s.loop with lastTickAt := now } }

/-- 44 R230 with R232, R234, R238, R239, R240: a TICK with a room temperature records its time and writes the corrected
setpoint to `want`; of the Store it may also write `want.power` and the time of the toggle, of the rest only the loop and the
trace. The pipeline in full: direction (`l`), toggle on the gate's answer (`m`), then the evaluation (`e`), its projection
(`a`) and, in the gradient variant, the adaptation; or the target itself where the PID does not evaluate. What the named
steps do is said by GateAnswers, ToggleActsOnTheAnswer, EvaluationStep, AdjustedRangeIsOrdered and AdaptationSchedule. -/
def Obligations.TickWritesTheSetpointBack : Prop :=
  ∀ (s : State) (now : Time), s.st.haveRoomTemp = true →
    (∃ t : State, exec (.tick now) s = .next t ∧ t.loop.lastTickAt = now ∧ t.loop.target = s.loop.target ∧
      t.st = { s.st with
        lastToggleAt := t.st.lastToggleAt
        want := { s.st.want with power := t.st.want.power, temperature := some t.loop.corrected } } ∧
      t.cfg = s.cfg ∧ t.newCfg = s.newCfg ∧ t.dec = s.dec ∧ t.sch = s.sch ∧ t.timers = s.timers ∧ t.port = s.port ∧
      t.freeCtr = s.freeCtr) ∧
    ∀ (l e : Loop) (m a : State),
      l = { (if s.st.modeNow = .heat ∧ s.loop.heating = false then
            recomputeAdjusted s.cfg { s.loop with heating := true }
          else if s.st.modeNow = .cool ∧ s.loop.heating = true then
            recomputeAdjusted s.cfg { s.loop with heating := false }
          else s.loop) with lastTickAt := now } →
      m = toggle (gate s.cfg s.st.modeNow s.loop.active s.st.status.roomTemperature s.loop.target) now
        { s with loop := l } →
      e = evaluate s.cfg s.st.status.roomTemperature (timeStep s.cfg now s.loop.lastTickAt) m.loop →
      a = { m with loop := { e with
        corrected := max e.adjustedMin
          (min (if e.heating then fxAdd s.cfg e.target e.lastOutput else fxSub s.cfg e.target e.lastOutput)
            e.adjustedMax) } } →
      (m.loop.active = true → s.st.modeNow = .heat ∨ s.st.modeNow = .cool →
        exec (.tick now) s = .next
          { (match s.cfg.pidVariant with | .gradient => adapt now a | .fixedDiscrete => a) with
            st := { m.st with want := { m.st.want with temperature := some a.loop.corrected } } }) ∧
      (m.loop.active = false ∨ (s.st.modeNow ≠ .heat ∧ s.st.modeNow ≠ .cool) →
        exec (.tick now) s = .next
          { m with
            loop := { m.loop with corrected := m.loop.target }
            st := { m.st with want := { m.st.want with temperature := some m.loop.target } } })

/-- 44 R232, 43 R218, 41 R159, R168: the direction follows the mode, HEAT true and COOL false, any other mode leaving it. The
mode is `get_wanted_or_current(mode)`, and that accessor is, for each field, the wanted value if there is one, else the current
one; the published values are those of power and temperature. -/
def Obligations.DirectionFollowsTheMode : Prop :=
  (∀ st : Store,
    st.powerNow = (match st.want.power with | some v => v | none => st.cur.power) ∧
    st.modeNow = (match st.want.mode with | some v => v | none => st.cur.mode) ∧
    st.temperatureNow = (match st.want.temperature with | some v => v | none => st.cur.temperature) ∧
    st.fanNow = (match st.want.fan with | some v => v | none => st.cur.fan) ∧
    st.vaneNow = (match st.want.vane with | some v => v | none => st.cur.vane) ∧
    st.wideVaneNow = (match st.want.wideVane with | some v => v | none => st.cur.wideVane) ∧
    (st.pubOn = true ↔ st.powerNow = .on) ∧ st.pubTemperature = st.temperatureNow) ∧
  ∀ (s t : State) (now : Time), s.st.haveRoomTemp = true → exec (.tick now) s = .next t →
    (s.st.modeNow = .heat → t.loop.heating = true) ∧ (s.st.modeNow = .cool → t.loop.heating = false) ∧
    (s.st.modeNow ≠ .heat → s.st.modeNow ≠ .cool → t.loop.heating = s.loop.heating)

/-- 43 R210, R211, R212, R213: the gate's answer, both comparisons strict. -/
def Obligations.GateAnswers : Prop :=
  ∀ (c : Config) (active : Bool) (cur tgt delta : Int) (mode : Mode),
    ((mode = .heat ∧ delta = fxSub c cur tgt) ∨ (mode = .cool ∧ delta = fxSub c tgt cur) →
      (active = false → fxSub c 0 delta > c.hystOnThr → gate c mode active cur tgt = .turnOn) ∧
      (active = false → fxSub c 0 delta ≤ c.hystOnThr → gate c mode active cur tgt = .noOp) ∧
      (active = true → delta > c.hystOffThr → gate c mode active cur tgt = .turnOff) ∧
      (active = true → delta ≤ c.hystOffThr → gate c mode active cur tgt = .noOp)) ∧
    (mode = .dry ∨ mode = .fan ∨ mode = .auto → gate c mode active cur tgt = .noOp)

/-- 43 R214, R215: the throttle, and what an accepted and a deferred toggle do. -/
def Obligations.ToggleActsOnTheAnswer : Prop :=
  ∀ (s : State) (now : Time),
    toggle .noOp now s = s ∧
    ((now - s.st.lastToggleAt).toNat < s.cfg.toggleMinMs.toNat →
      toggle .turnOn now s = { s with out := s.out ++ [.toggleDeferred .turnOn] } ∧
      toggle .turnOff now s = { s with out := s.out ++ [.toggleDeferred .turnOff] }) ∧
    (s.cfg.toggleMinMs.toNat ≤ (now - s.st.lastToggleAt).toNat →
      toggle .turnOn now s =
        { s with
          st := { s.st with lastToggleAt := now, want := { s.st.want with power := some .on } }
          loop := { s.loop with
            active := true
            integral := 0
            prevError := fxSub s.cfg s.loop.target s.st.status.roomTemperature
            restartAt := now
            lastAdaptAt := now }
          out := s.out ++ [.turnOn] } ∧
      toggle .turnOff now s =
        { s with
          st := { s.st with lastToggleAt := now, want := { s.st.want with power := some .off } }
          loop := { disableEvent s.cfg { s.loop with active := false } with
            integral := 0
            prevError := fxSub s.cfg s.loop.target s.st.status.roomTemperature
            restartAt := now
            lastAdaptAt := now }
          out := s.out ++ [.turnOff] })

/-- 44 R230, 43 R215, R216, R218: on a TICK the gate is asked with the loop as it was, and the loop changes state exactly on an
accepted toggle. -/
def Obligations.TickFlipsTheLoopOnAnAcceptedToggle : Prop :=
  ∀ (s t : State) (now : Time) (g : GateAnswer), s.st.haveRoomTemp = true → exec (.tick now) s = .next t →
    g = gate s.cfg s.st.modeNow s.loop.active s.st.status.roomTemperature s.loop.target →
    (g = .noOp ∨ throttleOk now s = false →
      t.loop.active = s.loop.active ∧ t.st.want.power = s.st.want.power ∧ t.st.lastToggleAt = s.st.lastToggleAt) ∧
    (g = .turnOn → throttleOk now s = true →
      t.loop.active = true ∧ t.st.want.power = some .on ∧ t.st.lastToggleAt = now ∧ t.loop.restartAt = now) ∧
    (g = .turnOff → throttleOk now s = true →
      t.loop.active = false ∧ t.st.want.power = some .off ∧ t.st.lastToggleAt = now ∧ t.loop.restartAt = now)

/-- 43 R217: where the gate answers `no_op` a TICK leaves it there and the loop as it is; a TICK that flips the loop leaves the
gate at `no_op`; so after a flip no number of further TICKs, the temperatures being the same, asks for a toggle again, not even
for a deferred one: all that they can emit is NumericFault. -/
def Obligations.ToggleIsIdempotent : Prop :=
  (∀ (s t : State) (now : Time), gateNow s = .noOp → exec (.tick now) s = .next t →
    gateNow t = .noOp ∧ t.loop.active = s.loop.active ∧
    ∃ es, t.out = s.out ++ es ∧ ∀ e ∈ es, ∃ k, e = .err 6 k) ∧
  ∀ (s t : State) (now : Time), configWf s.cfg = true → s.st.haveRoomTemp = true → exec (.tick now) s = .next t →
    t.loop.active ≠ s.loop.active →
    gateNow t = .noOp ∧
    ∀ times : List Time, ∃ u, tickAt times t = .next u ∧ u.loop.active = t.loop.active ∧
      ∃ es, u.out = t.out ++ es ∧ ∀ e ∈ es, ∃ k, e = .err 6 k

/-- 44 R233, R235, R236, R237: one evaluation, the time step being clamped. -/
def Obligations.EvaluationStep : Prop :=
  (∀ (c : Config) (now before : Time), timeStep c now before =
    max c.dtMinMs.toNat (min (now - before).toNat c.dtMaxMs.toNat)) ∧
  (∀ (c : Config) (l : Loop) (cur e i d : Int) (dtMs : Nat),
    e = fxSub c l.target cur →
    i = max (-l.integralMax)
      (min (fxAdd c l.integral (sat c (Int.fdiv (e * (dtMs : Int)) 1000))) l.integralMax) →
    d = sat c (Int.fdiv ((e - l.prevError) * 1000) (dtMs : Int)) →
    evaluate c cur dtMs l =
      { l with
        integral := i
        prevError := e
        lastError := e
        lastDerivative := d
        lastOutput := fxAdd c (fxAdd c (fxMul c l.kp e) (fxMul c l.ki i)) (fxMul c l.kd d) })

/-- 44 R234, R239, R240: right after a TICK, in Active and in HEAT or COOL the corrected setpoint lies in the adjusted range;
otherwise it is the target. (10 R41 (g):) no operation but TICK, SET_TARGET and RESET moves the range or the corrected
setpoint, so that it stays in the range until the next of these. (After a SET_TARGET it need not lie there: 44 R245 moves the
range and leaves it, which the model follows where R41 (g) says otherwise, log 24.) -/
def Obligations.CorrectedSetpointIsBounded : Prop :=
  (∀ (i : Instr) (s t : State), (∀ now, i ≠ .tick now) → (∀ arg now, i ≠ .setTarget arg now) → i ≠ .reset →
    exec i s = .next t →
    t.loop.adjustedMin = s.loop.adjustedMin ∧ t.loop.adjustedMax = s.loop.adjustedMax ∧
    t.loop.corrected = s.loop.corrected) ∧
  ∀ (s t : State) (now : Time), configWf s.cfg = true → loopInv s → s.st.haveRoomTemp = true →
    exec (.tick now) s = .next t →
    (t.loop.active = true → s.st.modeNow = .heat ∨ s.st.modeNow = .cool →
      t.loop.adjustedMin ≤ t.loop.corrected ∧ t.loop.corrected ≤ t.loop.adjustedMax) ∧
    (t.loop.active = false ∨ (s.st.modeNow ≠ .heat ∧ s.st.modeNow ≠ .cool) → t.loop.corrected = t.loop.target)

/-- 44 R241: the adjusted range, "over" being the side the device drives toward; in order and inside the output range. -/
def Obligations.AdjustedRangeIsOrdered : Prop :=
  (∀ (c : Config) (l : Loop), l.heating = true →
    recomputeAdjusted c l =
      { l with
        adjustedMin := max c.outputMin (min (fxSub c l.target c.underCap) c.outputMax)
        adjustedMax := max c.outputMin (min (fxAdd c l.target c.overCap) c.outputMax) }) ∧
  (∀ (c : Config) (l : Loop), l.heating = false →
    recomputeAdjusted c l =
      { l with
        adjustedMin := max c.outputMin (min (fxSub c l.target c.overCap) c.outputMax)
        adjustedMax := max c.outputMin (min (fxAdd c l.target c.underCap) c.outputMax) }) ∧
  (∀ (c : Config) (l : Loop), configWf c = true →
    c.outputMin ≤ (recomputeAdjusted c l).adjustedMin ∧
    (recomputeAdjusted c l).adjustedMin ≤ (recomputeAdjusted c l).adjustedMax ∧
    (recomputeAdjusted c l).adjustedMax ≤ c.outputMax)

/-- 44 R244: a disable event: the saturating count, and from the `REPEAT_DISABLE_MIN`-th on the shrink of `kp` and of
`integral_max`, each with its floor. -/
def Obligations.DisableEventShrinks : Prop :=
  ∀ (c : Config) (l : Loop) (n : BitVec 8), (l.disableCount = 0xFF#8 → n = 0xFF#8) →
    (l.disableCount ≠ 0xFF#8 → n = l.disableCount + 1#8) →
    (n.toNat < c.repeatDisableMin → disableEvent c l = { l with disableCount := n }) ∧
    (c.repeatDisableMin ≤ n.toNat →
      disableEvent c l =
        { l with
          disableCount := n
          kp := max (fxMul c l.kp c.kpShrink) c.kpMin
          integralMax := max (fxMul c l.integralMax c.imaxShrink) c.imaxFloor })

/-- 44 R250: when an adaptation step runs: not before its interval, and within the grace period only the interval restarts. -/
def Obligations.AdaptationSchedule : Prop :=
  ∀ (s : State) (now : Time),
    ((now - s.loop.lastAdaptAt).toNat < s.cfg.adaptIntervalMs.toNat → adapt now s = s) ∧
    (s.cfg.adaptIntervalMs.toNat ≤ (now - s.loop.lastAdaptAt).toNat →
      (now - s.loop.restartAt).toNat < s.cfg.graceMs.toNat →
      adapt now s = { s with loop := { s.loop with lastAdaptAt := now } }) ∧
    (s.cfg.adaptIntervalMs.toNat ≤ (now - s.loop.lastAdaptAt).toNat →
      s.cfg.graceMs.toNat ≤ (now - s.loop.restartAt).toNat →
      ∀ p i d : GainStep,
        p = adaptOne s.cfg s.loop.lastError (el now s.loop.lastAdaptAt) s.loop.kp s.loop.lastError s.cfg.lrKp s.loop.sKp
          s.cfg.kpMin s.cfg.kpMax →
        i = adaptOne s.cfg s.loop.lastError (el now s.loop.lastAdaptAt) s.loop.ki s.loop.integral s.cfg.lrKi s.loop.sKi
          s.cfg.kiMin s.cfg.kiMax →
        d = adaptOne s.cfg s.loop.lastError (el now s.loop.lastAdaptAt) s.loop.kd s.loop.lastDerivative s.cfg.lrKd
          s.loop.sKd s.cfg.kdMin s.cfg.kdMax →
        adapt now s =
          { s with
            loop := { s.loop with
              lastAdaptAt := now
              kp := p.gain, sKp := p.smooth
              ki := i.gain, sKi := i.smooth
              kd := d.gain, sKd := d.smooth }
            out := s.out ++ (if p.fault then [.err 6 0] else []) ++ (if i.fault then [.err 6 1] else []) ++
              (if d.fault then [.err 6 2] else []) })

/-- 44 R251 to R255: one gain's step: the midpoint for a gain outside its bounds; else the raw, scaled and smoothed delta,
ignored when an intermediate value leaves the Fx range, and otherwise capped and added. -/
def Obligations.GradientStepOfOneGain : Prop :=
  ∀ (c : Config) (err g r lr sm gmin gmax a1 a2 a3 a4 sNew lim : Int) (elMs : Nat),
    a1 = Int.fdiv (c.plantSens * err) (c.scale : Int) → a2 = Int.fdiv (a1 * r) (c.scale : Int) →
    a3 = Int.fdiv (a2 * lr) (c.scale : Int) → a4 = Int.fdiv (a3 * (elMs : Int)) 1000 →
    sNew = sm + Int.fdiv (c.smoothAlpha * (a4 - sm)) (c.scale : Int) →
    lim = Int.fdiv (c.relCap * (g.natAbs : Int)) (c.scale : Int) →
    (g < gmin ∨ gmax < g → adaptOne c err elMs g r lr sm gmin gmax = ⟨Int.fdiv (gmin + gmax) 2, sm, true⟩) ∧
    (gmin ≤ g → g ≤ gmax →
      ((∃ x ∈ [a1, a2, a3, a4, sNew], x < fxMin c ∨ fxMax c < x) →
        adaptOne c err elMs g r lr sm gmin gmax = ⟨g, sm, true⟩) ∧
      ((∀ x ∈ [a1, a2, a3, a4, sNew], fxMin c ≤ x ∧ x ≤ fxMax c) →
        adaptOne c err elMs g r lr sm gmin gmax =
          ⟨max gmin (min (g + max (-lim) (min sNew lim)) gmax), sNew, false⟩))

/-- 44 R254, R255: a gain's step leaves it inside its bounds, and moves a gain that lay inside them by at most its relative
cap. -/
def Obligations.GainStepIsBoundedAndCapped : Prop :=
  ∀ (c : Config) (err g r lr sm gmin gmax : Int) (elMs : Nat), gmin ≤ gmax → 0 ≤ c.relCap → 0 < c.scale →
    gmin ≤ (adaptOne c err elMs g r lr sm gmin gmax).gain ∧
    (adaptOne c err elMs g r lr sm gmin gmax).gain ≤ gmax ∧
    (gmin ≤ g → g ≤ gmax →
      ((adaptOne c err elMs g r lr sm gmin gmax).gain - g).natAbs * c.scale ≤ c.relCap.natAbs * g.natAbs)

/-- 44 R242, R256: the FixedDiscrete variant never adapts: no TICK writes `ki`, `kd` or a smoothed delta, and a TICK that does
not turn the loop off does not write `kp` or `integral_max` either. -/
def Obligations.FixedDiscreteNeverAdapts : Prop :=
  ∀ (s t : State) (now : Time), s.cfg.pidVariant = .fixedDiscrete → exec (.tick now) s = .next t →
    t.loop.ki = s.loop.ki ∧ t.loop.kd = s.loop.kd ∧ t.loop.sKp = s.loop.sKp ∧ t.loop.sKi = s.loop.sKi ∧
    t.loop.sKd = s.loop.sKd ∧
    (t.loop.active = s.loop.active ∨ t.loop.active = true →
      t.loop.kp = s.loop.kp ∧ t.loop.integralMax = s.loop.integralMax)

/-- 44 R245: SET_TARGET: nothing for the present target; else the new target, the integral at 0, the range recomputed from the
new target and the direction, and SAVE_TARGET. -/
def Obligations.SetTargetRetargets : Prop :=
  ∀ (s : State) (arg : BitVec 32) (now : Time) (t : Int), t = fxOperand s.cfg arg →
    (t = s.loop.target → exec (.setTarget arg now) s = .next s) ∧
    (t ≠ s.loop.target →
      exec (.setTarget arg now) s =
        .next { s with
          loop := { s.loop with
            target := t
            integral := 0
            adjustedMin := (adjustedRange s.cfg s.loop.heating t).1
            adjustedMax := (adjustedRange s.cfg s.loop.heating t).2 }
          out := s.out ++ [.saveTarget t] })

/-! ### Setters, link, no-ops, reset -/

/-- 41 R160, R161, R163, R164, R165, 60 R275: a symbolic setter stores the index that resolves, or index 0 with InvalidSymbol,
and reports what it stored; 10 R24: the value stored for an index has that index. -/
def Obligations.SymbolicSettersResolveOrFallBack : Prop :=
  (∀ i, i < 2 → (powerOfIdx i).idx = i) ∧ (∀ i, i < 5 → (modeOfIdx i).idx = i) ∧
  (∀ i, i < 6 → (fin6OfIdx i).val = i) ∧ (∀ i, i < 7 → (fin7OfIdx i).val = i) ∧
  ∀ (s : State) (sym : Byte) (now : Time),
    exec (.setPower sym now) s = .next { s with
      st := { s.st with want := { s.st.want with power := some (powerOfIdx (if sym.toNat < 2 then sym.toNat else 0)) } }
      out := s.out ++ (if sym.toNat < 2 then [.setterResult 0 sym.toNat]
        else [.err 5 (0 * 256 + sym.toNat), .setterResult 0 0]) } ∧
    exec (.setMode sym now) s = .next { s with
      st := { s.st with want := { s.st.want with mode := some (modeOfIdx (if sym.toNat < 5 then sym.toNat else 0)) } }
      out := s.out ++ (if sym.toNat < 5 then [.setterResult 1 sym.toNat]
        else [.err 5 (1 * 256 + sym.toNat), .setterResult 1 0]) } ∧
    exec (.setFan sym now) s = .next { s with
      st := { s.st with want := { s.st.want with fan := some (fin6OfIdx (if sym.toNat < 6 then sym.toNat else 0)) } }
      out := s.out ++ (if sym.toNat < 6 then [.setterResult 3 sym.toNat]
        else [.err 5 (3 * 256 + sym.toNat), .setterResult 3 0]) } ∧
    exec (.setVane sym now) s = .next { s with
      st := { s.st with want := { s.st.want with vane := some (fin7OfIdx (if sym.toNat < 7 then sym.toNat else 0)) } }
      out := s.out ++ (if sym.toNat < 7 then [.setterResult 4 sym.toNat]
        else [.err 5 (4 * 256 + sym.toNat), .setterResult 4 0]) } ∧
    exec (.setWidevane sym now) s = .next { s with
      st := { s.st with want :=
        { s.st.want with wideVane := some (fin7OfIdx (if sym.toNat < 7 then sym.toNat else 0)) } }
      out := s.out ++ (if sym.toNat < 7 then [.setterResult 5 sym.toNat]
        else [.err 5 (5 * 256 + sym.toNat), .setterResult 5 0]) }

/-- 41 R162: SET_TEMPERATURE stores its operand with no clamp and no rounding, and reports it. -/
def Obligations.SetTemperatureStoresItsOperand : Prop :=
  ∀ (s : State) (arg : BitVec 32) (now : Time),
    exec (.setTemperature arg now) s = .next { s with
      st := { s.st with want := { s.st.want with temperature := some (fxOperand s.cfg arg) } }
      out := s.out ++ [.setterResult 2 (fxOperand s.cfg arg)] }

/-- 41 R167, 60 R277: LINK_DOWN clears `connected` and raises TransportError; nothing else changes. -/
def Obligations.LinkDownClearsConnected : Prop :=
  ∀ (s : State) (now : Time),
    exec (.linkDown now) s = .next { s with st := { s.st with connected := false }, out := s.out ++ [.err 7 0] }

/-- 30 R96: NOP and the reserved selectors change no state and emit nothing. -/
def Obligations.NopAndReservedDoNothing : Prop :=
  ∀ (s : State) (now : Time),
    exec (.nop now) s = .next s ∧ exec (.reservedD now) s = .next s ∧ exec (.reservedE now) s = .next s ∧
    exec (.reservedF now) s = .next s

/-- 70 R300: RESET, in every state, puts every piece of `S` at its reset value, under the configuration that is ready (the
present one, if none is), and emits nothing (whether the trace goes on or starts anew is open, R302). -/
def Obligations.ResetRestoresEveryPiece : Prop :=
  ∀ (s : State) (c : Config) (mid : Int), c = (s.newCfg.headD none).getD s.cfg → configWf c = true →
    mid = Int.fdiv (c.outputMin + c.outputMax) 2 →
    ∃ t : State, exec .reset s = .next t ∧ t.out <+: s.out ∧
      t.dec = ⟨.seeking, 0, 0x00#8, []⟩ ∧ (∀ a, memRead t.dec.buf a = 0x00#8) ∧
      t.st = {
        cur := ⟨.off, .heat, 0, 0, 0, 0⟩
        want := ⟨none, none, none, none, none, none⟩
        status := ⟨false, 0, 0, 0, 0, 0⟩
        timerRaw := [], func := [], lastToggleAt := 0#32
        connected := false, firstRun := true, extTempMode := false, haveRoomTemp := false } ∧
      (∀ a, memRead t.st.timerRaw a = 0x00#8) ∧ (∀ a, memRead t.st.func a = 0x00#8) ∧
      t.sch = List.replicate c.req.length ⟨false, false, 0x00#8, 0#32⟩ ∧
      t.timers = [] ∧
      t.loop = {
        active := false, heating := true, target := mid
        adjustedMin := max c.outputMin (min (fxSub c mid c.underCap) c.outputMax)
        adjustedMax := max c.outputMin (min (fxAdd c mid c.overCap) c.outputMax)
        kp := c.kpInit, ki := c.kiInit, kd := c.kdInit, integralMax := c.imaxInit
        integral := 0, prevError := 0, lastError := 0, lastDerivative := 0, lastOutput := 0, corrected := mid
        disableCount := 0x00#8, sKp := 0, sKi := 0, sKd := 0
        lastTickAt := 0#32, restartAt := 0#32, lastAdaptAt := 0#32 }

/-- 70 R302: across a RESET the configuration that is ready for it comes into force, and the replacements for later RESETs
stay ready. That nothing is added to the trace, which goes
on, and that the inputs to come and the model's counter stay is the model's choice (log 3, log 5, log 6). A configuration that is not
well-formed is refused (00 R8). -/
def Obligations.ResetLeavesThePlatformAlone : Prop :=
  (∀ s : State, configWf ((s.newCfg.headD none).getD s.cfg) = false → exec .reset s = .refused .illFormedConfig) ∧
  ∀ (s : State) (c : Config), c = (s.newCfg.headD none).getD s.cfg → configWf c = true →
    ∃ t : State, exec .reset s = .next t ∧ t.cfg = c ∧ t.newCfg = s.newCfg.tail ∧ t.out = s.out ∧ t.port = s.port ∧
      t.freeCtr = s.freeCtr

/-! ### Accessors -/

/-- 41 R166: each bit of the two masks, the temperature within the tolerance. -/
def Obligations.DifferenceMaskBits : Prop :=
  ∀ (c : Config) (st : Store),
    ((diffMask c st).1.getLsbD 0 = true ↔ ∃ v, st.want.power = some v ∧ v ≠ st.cur.power) ∧
    ((diffMask c st).1.getLsbD 1 = true ↔ ∃ v, st.want.mode = some v ∧ v ≠ st.cur.mode) ∧
    ((diffMask c st).1.getLsbD 2 = true ↔
      ∃ v, st.want.temperature = some v ∧ c.eps < ((v - st.cur.temperature).natAbs : Int)) ∧
    ((diffMask c st).1.getLsbD 3 = true ↔ ∃ v, st.want.fan = some v ∧ v ≠ st.cur.fan) ∧
    ((diffMask c st).1.getLsbD 4 = true ↔ ∃ v, st.want.vane = some v ∧ v ≠ st.cur.vane) ∧
    ((diffMask c st).2.getLsbD 0 = true ↔ ∃ v, st.want.wideVane = some v ∧ v ≠ st.cur.wideVane) ∧
    (∀ k, 5 ≤ k → (diffMask c st).1.getLsbD k = false) ∧ (∀ k, 1 ≤ k → (diffMask c st).2.getLsbD k = false)

/-! ### Whole-machine rules -/

/-- 20 R72: no operation but RESET writes the configuration in force. -/
def Obligations.ConfigurationIsReadOnly : Prop :=
  ∀ (i : Instr) (s t : State), i ≠ .reset → exec i s = .next t → t.cfg = s.cfg ∧ t.newCfg = s.newCfg

/-- 10 R36, 60 R288: the gains, the smoothed deltas, `integral_max` and `disable_count` are written by TICK and RESET only. -/
def Obligations.OnlyTickAndResetWriteTheGains : Prop :=
  ∀ (i : Instr) (s t : State), i ≠ .reset → (∀ now, i ≠ .tick now) → exec i s = .next t →
    t.loop.kp = s.loop.kp ∧ t.loop.ki = s.loop.ki ∧ t.loop.kd = s.loop.kd ∧ t.loop.integralMax = s.loop.integralMax ∧
    t.loop.sKp = s.loop.sKp ∧ t.loop.sKi = s.loop.sKi ∧ t.loop.sKd = s.loop.sKd ∧
    t.loop.disableCount = s.loop.disableCount ∧ t.loop.active = s.loop.active

/-- 10 R41 (d), (e), R30, 41 R149: the one-way latches. No step but a RESET clears `disabled`, `ext_temp_mode` or
`have_room_temp`, or sets `first_run` again, whatever `on_response` a request has. -/
def Obligations.LatchesAreOneWay : Prop :=
  ∀ (i : Instr) (s t : State), i ≠ .reset → exec i s = .next t →
    (s.st.extTempMode = true → t.st.extTempMode = true) ∧ (s.st.haveRoomTemp = true → t.st.haveRoomTemp = true) ∧
    (s.st.firstRun = false → t.st.firstRun = false) ∧
    ∀ (k : Nat) (r : ReqState), s.sch[k]? = some r → r.disabled = true →
      ∃ r', t.sch[k]? = some r' ∧ r'.disabled = true

/-- 10 R41 (a), (b), 40 R118, 20 R60: every step keeps the decoder's invariant. -/
def Obligations.StepKeepsTheDecoder : Prop :=
  ∀ s t : State, configWf s.cfg = true → decoderInv s → step s = .next t → decoderInv t

/-- 10 R41 (c), 42 R189, R191, R192: every step keeps the request table's invariant: at most one request in flight, its timer
pending and itself not disabled, and `failures` bounded. -/
def Obligations.StepKeepsTheRequests : Prop :=
  ∀ s t : State, configWf s.cfg = true → requestInv s → step s = .next t → requestInv t

/-- 10 R41 (f), (g), 44 R246: every step keeps the anti-windup bound and the adjusted range. -/
def Obligations.StepKeepsTheLoop : Prop :=
  ∀ s t : State, configWf s.cfg = true → loopInv s → step s = .next t → loopInv t

/-- 00 R12: every step leaves every Fx register of the loop and every Fx value of the Store at a value of `NW` bits, whatever
`on_response` a request has. -/
def Obligations.StepKeepsTheFxRange : Prop :=
  ∀ s t : State, configWf s.cfg = true → loopInv s → loopFx s → step s = .next t →
    loopFx t ∧ (storeFx s → storeFx t)

/-- 10 R41 (h): every step of an event keeps the gains inside their bounds when `KP_MAX ≥ 0`. For `KP_MAX < 0` too it keeps
`ki` and `kd` inside theirs and `kp` above `KP_MIN`; only the shrink of 44 R244, on a TICK that turns the loop off, can then
raise `kp` above `KP_MAX` (log 19). -/
def Obligations.EventsKeepTheGainsInBounds : Prop :=
  ∀ (i : Instr) (s t : State), configWf s.cfg = true → i ≠ .reset → gainsInBounds s → exec i s = .next t →
    (0 ≤ s.cfg.kpMax → gainsInBounds t) ∧
    (t.cfg.kiMin ≤ t.loop.ki ∧ t.loop.ki ≤ t.cfg.kiMax) ∧ (t.cfg.kdMin ≤ t.loop.kd ∧ t.loop.kd ≤ t.cfg.kdMax) ∧
    t.cfg.kpMin ≤ t.loop.kp ∧
    (t.loop.kp ≤ t.cfg.kpMax ∨ ∃ now, i = .tick now ∧ s.loop.active = true ∧ t.loop.active = false)

/-- 20 R60 (b): every step keeps the canonical form and the addresses of the timer bytes and the function table, whatever
`on_response` a request has. -/
def Obligations.StepKeepsTheStoreMemories : Prop :=
  ∀ s t : State, storeMemInv s → step s = .next t → storeMemInv t

/-- The invariants hold right after a RESET under any well-formed configuration, and after the model's own. -/
def Obligations.ResetStateIsSafe : Prop :=
  (∀ c : Config, configWf c = true →
    safe (State.resetOf c) ∧ storeMemInv (State.resetOf c) ∧ storeFx (State.resetOf c)) ∧ safe State.reset

/-- 60 R283: totality. From a safe state every run, of any length and of any inputs, answers a next state, and a safe one; so
does every run after a RESET under any well-formed configuration, whatever well-formed ones later RESETs bring. The rule
excepts a TIMEOUT with no pending entry (60 R279); that it completes too is the model's choice (log 7). -/
def Obligations.SafeRunsNeverStop : Prop :=
  (∀ (k : Nat) (s : State), safe s → ∃ t : State, Host.Core.run Sys2Proof.core k s = .next t ∧ safe t) ∧
  (∀ (k : Nat) (c : Config) (inputs : List Input) (later : List (Option Config)), configWf c = true →
    replacementsWf later →
    ∃ t : State, Host.Core.run Sys2Proof.core k { State.resetOf c with port := inputs, newCfg := later } = .next t ∧
      safe t)
end

