-- ==== Sys2Proof/Laws/Decode.lean ====
section
/-! SUPPORT. The laws of the encodings: the fields of a packed event word, the sum of bytes, and the shape of a frame. -/

namespace Sys2Proof

/-! ### Event words (30 R95) -/

@[simp] theorem eventOp_packEvent (op : BitVec 4) (arg : BitVec 32) (now : Time) : eventOp (packEvent op arg now) = op := by
  ext i hi
  simp only [eventOp, packEvent, BitVec.getElem_extractLsb', BitVec.getLsbD_append]
  simp [hi]

@[simp] theorem eventArg_packEvent (op : BitVec 4) (arg : BitVec 32) (now : Time) :
    eventArg (packEvent op arg now) = arg := by
  ext i hi
  simp only [eventArg, packEvent, BitVec.getElem_extractLsb', BitVec.getLsbD_append]
  simp [hi]

@[simp] theorem eventNow_packEvent (op : BitVec 4) (arg : BitVec 32) (now : Time) :
    eventNow (packEvent op arg now) = now := by
  ext i hi
  have h1 : ¬ 36 + i < 4 := by omega
  have h2 : ¬ 36 + i - 4 < 32 := by omega
  have h3 : 36 + i - 4 - 32 = i := by omega
  simp only [eventNow, packEvent, BitVec.getElem_extractLsb', BitVec.getLsbD_append]
  simp [h1, h2, h3, hi]

@[simp] theorem argByte_setWidth (b : Byte) : argByte (b.setWidth 32) = b := by
  ext i hi
  simp [argByte, hi]
  omega

/-! ### The checksum (30 R84) -/

theorem sumBytes_append (xs ys : List Byte) : sumBytes (xs ++ ys) = sumBytes xs + sumBytes ys := by
  induction xs with
  | nil => simp [sumBytes]
  | cons b bs ih => simp only [sumBytes, List.cons_append, List.foldr_cons] at *; rw [ih]; bv_omega

theorem sumBytes_toNat (bs : List Byte) : (sumBytes bs).toNat = (bs.map BitVec.toNat).sum % 256 := by
  induction bs with
  | nil => rfl
  | cons b bs ih =>
    simp only [sumBytes, List.foldr_cons] at *
    simp [BitVec.toNat_add, ih]

/-- One byte replaced. -/
theorem sumBytes_set {xs : List Byte} {k : Nat} {b : Byte} (h : xs[k]? = some b) (v : Byte) :
    sumBytes (xs.set k v) = sumBytes xs - b + v := by
  induction xs generalizing k with
  | nil => simp at h
  | cons x xs ih =>
    cases k with
    | zero => simp at h; subst h; simp only [List.set_cons_zero, sumBytes, List.foldr_cons]; bv_omega
    | succ k =>
      simp at h
      have := ih h
      simp only [List.set_cons_succ, sumBytes, List.foldr_cons] at *
      rw [this]; bv_omega

/-- All the bytes of a frame sum to 0xFC. -/
theorem sumBytes_encodeFrame (cmd : Byte) (f : Frame) : sumBytes (encodeFrame cmd f) = 0xFC#8 := by
  rw [encodeFrame, sumBytes_append, checksum]
  generalize sumBytes (frameBody cmd f) = z
  simp [sumBytes]

/-! ### The shape of a frame (30 R81) -/

theorem encodeFrame_eq (cmd : Byte) (f : Frame) :
    encodeFrame cmd f =
      0xFC#8 :: cmd :: f.fixedA :: f.fixedB :: BitVec.ofNat 8 f.data.length :: (f.data ++ [checksum (frameBody cmd f)]) := by
  simp [encodeFrame, frameBody]

@[simp] theorem encodeFrame_length (cmd : Byte) (f : Frame) : (encodeFrame cmd f).length = f.data.length + 6 := by
  simp [encodeFrame_eq]

end Sys2Proof
end

