-- ==== Sys2Proof/Laws/Fixed.lean ====
section
/-! SUPPORT. What the fixed-point operations can answer. -/

namespace Sys2Proof.Machine

variable (c : Config)

theorem fxMin_neg : fxMin c < 0 := by
  have : 0 < Nat.pow 2 (c.nw - 1) := Nat.pow_pos (by decide)
  simp only [fxMin, Int.ofNat_eq_natCast]; omega

theorem fxMax_nonneg : 0 ≤ fxMax c := by
  have : 0 < Nat.pow 2 (c.nw - 1) := Nat.pow_pos (by decide)
  simp only [fxMax, Int.ofNat_eq_natCast]; omega

theorem fxMin_eq : fxMin c = -fxMax c - 1 := by
  simp only [fxMin, fxMax, Int.ofNat_eq_natCast]; omega

/-- 00 R13: `near` as an inequality. -/
theorem near_iff {a b : Int} : near c a b = true ↔ ((a - b).natAbs : Int) ≤ c.eps := by simp [near]

theorem fxInRange_iff {z : Int} : fxInRange c z = true ↔ fxMin c ≤ z ∧ z ≤ fxMax c := by simp [fxInRange]

theorem clamp_bounds {lo hi : Int} (h : lo ≤ hi) (x : Int) : lo ≤ clamp x lo hi ∧ clamp x lo hi ≤ hi := by
  simp only [clamp]; omega

theorem clamp_of_mem {x lo hi : Int} (h1 : lo ≤ x) (h2 : x ≤ hi) : clamp x lo hi = x := by
  simp only [clamp]; omega

/-- Every saturated value is one of `NW` bits. -/
theorem sat_inRange (z : Int) : fxInRange c (sat c z) = true := by
  have h1 := fxMin_neg c
  have h2 := fxMax_nonneg c
  rw [fxInRange_iff]
  exact clamp_bounds (by omega) z

/-- Saturation does nothing inside the range. -/
theorem sat_of_inRange {z : Int} (h : fxInRange c z = true) : sat c z = z := by
  rw [fxInRange_iff] at h
  exact clamp_of_mem h.1 h.2

/-- A value clamped between two values of `NW` bits is one. -/
theorem clamp_inRange {x lo hi : Int} (h : lo ≤ hi) (hlo : fxInRange c lo = true) (hhi : fxInRange c hi = true) :
    fxInRange c (clamp x lo hi) = true := by
  rw [fxInRange_iff] at *
  have := clamp_bounds h x
  omega

/-- 44 R241: the adjusted range is in order and inside the output range. -/
theorem adjustedRange_bounds (h : configWf c = true) (heating : Bool) (t : Int) :
    c.outputMin ≤ (adjustedRange c heating t).1 ∧
    (adjustedRange c heating t).2 ≤ c.outputMax ∧
    c.outputMin ≤ c.outputMax := by
  have hr : c.outputMin ≤ c.outputMax := by
    simp only [configWf, rangesWf, Bool.and_eq_true, decide_eq_true_eq] at h
    omega
  exact ⟨(clamp_bounds hr _).1, (clamp_bounds hr _).2, hr⟩

end Sys2Proof.Machine
end

