-- ==== Sys2Proof/Laws/Memory.lean ====
section
/-! SUPPORT. The laws of the byte-addressed spaces: a read after a write, and that every write keeps the canonical form and the
addresses of the space. -/

namespace Sys2Proof.Machine

theorem memRead_of_lt {m : Memory} {lo a : Nat} (h : memWfFrom lo m = true) (ha : a < lo) : memRead m a = memUnlisted := by
  induction m generalizing lo with
  | nil => rfl
  | cons c m ih =>
    obtain ⟨x, v⟩ := c
    simp only [memWfFrom, Bool.and_eq_true, decide_eq_true_eq] at h
    rw [memRead, if_neg (by omega), ih h.2 (by omega)]

theorem memWfFrom_mono {m : Memory} {lo lo' : Nat} (h : memWfFrom lo m = true) (hl : lo' ≤ lo) : memWfFrom lo' m = true := by
  cases m with
  | nil => rfl
  | cons c m =>
    obtain ⟨x, v⟩ := c
    simp only [memWfFrom, Bool.and_eq_true, decide_eq_true_eq] at h ⊢
    exact ⟨⟨by omega, h.1.2⟩, h.2⟩

/-- A write keeps the canonical form above any bound that it respects. -/
theorem memWfFrom_write {m : Memory} {lo a : Nat} {b : Byte} (h : memWfFrom lo m = true) (ha : lo ≤ a) :
    memWfFrom lo (memWrite m a b) = true := by
  induction m generalizing lo with
  | nil => by_cases hb : b = memUnlisted <;> simp [memWrite, memWfFrom, hb, ha]
  | cons c m ih =>
    obtain ⟨x, v⟩ := c
    simp only [memWfFrom, Bool.and_eq_true, decide_eq_true_eq] at h
    obtain ⟨⟨hx, hv⟩, hm⟩ := h
    rw [memWrite]
    split
    · rename_i hlt
      split
      · simp [memWfFrom, hx, hv, hm]
      · rename_i hb
        simp [memWfFrom, ha, hb, hv, hm]
        omega
    · split
      · rename_i hxa
        subst hxa
        split
        · exact memWfFrom_mono hm (by omega)
        · rename_i hb
          simp [memWfFrom, ha, hb, hm]
      · simp [memWfFrom, hx, hv, ih hm (by omega)]

/-- Every write keeps the canonical form. -/
theorem memWrite_wf {m : Memory} (h : m.wf = true) (a : Nat) (b : Byte) : Memory.wf (memWrite m a b) = true :=
  memWfFrom_write h (Nat.zero_le a)

/-- A read after a write, in a memory in canonical form: the byte written at its address, every other byte as before. -/
theorem memRead_write_from {m : Memory} {lo : Nat} (h : memWfFrom lo m = true) (a : Nat) (b : Byte) (i : Nat) :
    memRead (memWrite m a b) i = if i = a then b else memRead m i := by
  induction m generalizing lo with
  | nil =>
    by_cases hb : b = memUnlisted
    · simp [memWrite, memRead, hb]
    · simp [memWrite, memRead, hb, eq_comm]
  | cons c m ih =>
    obtain ⟨x, v⟩ := c
    simp only [memWfFrom, Bool.and_eq_true, decide_eq_true_eq] at h
    obtain ⟨_, hm⟩ := h
    rw [memWrite]
    by_cases hlt : a < x
    · rw [if_pos hlt]
      by_cases hb : b = memUnlisted
      · rw [if_pos hb]
        by_cases hi : i = a
        · rw [if_pos hi, hi, memRead, if_neg (by omega), memRead_of_lt hm (by omega), hb]
        · rw [if_neg hi]
      · rw [if_neg hb, memRead]
        by_cases hi : a = i
        · rw [if_pos hi, if_pos hi.symm]
        · rw [if_neg hi, if_neg (Ne.symm hi)]
    · rw [if_neg hlt]
      by_cases hxa : x = a
      · rw [if_pos hxa]
        by_cases hb : b = memUnlisted
        · rw [if_pos hb]
          by_cases hi : i = a
          · rw [if_pos hi, hi, memRead_of_lt hm (by omega), hb]
          · rw [if_neg hi, memRead, if_neg (by omega)]
        · rw [if_neg hb, memRead, memRead]
          by_cases hi : i = a
          · rw [if_pos hi.symm, if_pos hi]
          · rw [if_neg (Ne.symm hi), if_neg hi, if_neg (by omega)]
      · rw [if_neg hxa, memRead, memRead, ih hm]
        by_cases hi : i = a
        · rw [if_neg (by omega), if_pos hi, if_pos hi]
        · rw [if_neg hi, if_neg hi]

/-- A read after a write. -/
theorem memRead_write {m : Memory} (h : m.wf = true) (a : Nat) (b : Byte) (i : Nat) :
    memRead (memWrite m a b) i = if i = a then b else memRead m i := memRead_write_from h a b i

/-- A write inside a space stays inside it. -/
theorem memWrite_below {m : Memory} {n a : Nat} (h : m.below n = true) (ha : a < n) (b : Byte) :
    Memory.below n (memWrite m a b) = true := by
  induction m with
  | nil => by_cases hb : b = memUnlisted <;> simp [memWrite, Memory.below, hb, ha]
  | cons c m ih =>
    obtain ⟨x, v⟩ := c
    simp only [Memory.below, List.all_cons, Bool.and_eq_true, decide_eq_true_eq] at h
    have ih := ih h.2
    simp only [Memory.below] at ih
    rw [memWrite]
    split
    · split <;> simp [Memory.below, h.1, h.2, ha]
    · split
      · split <;> simp [Memory.below, h.2, ha]
      · simp [Memory.below, h.1, ih]

theorem memWriteAll_wf {m : Memory} (h : m.wf = true) (a : Nat) (bs : List Byte) :
    Memory.wf (memWriteAll m a bs) = true := by
  induction bs generalizing m a with
  | nil => exact h
  | cons b bs ih => exact ih (memWrite_wf h a b) (a + 1)

theorem memWriteAll_below {m : Memory} {n : Nat} (h : m.below n = true) (a : Nat) (bs : List Byte)
    (ha : a + bs.length ≤ n) : Memory.below n (memWriteAll m a bs) = true := by
  induction bs generalizing m a with
  | nil => exact h
  | cons b bs ih =>
    simp only [List.length_cons] at ha
    exact ih (memWrite_below h (by omega) b) (a + 1) (by omega)

/-- A read after writing bytes at rising addresses. -/
theorem memRead_writeAll {m : Memory} (h : m.wf = true) (a : Nat) (bs : List Byte) (i : Nat) :
    memRead (memWriteAll m a bs) i = if a ≤ i then bs.getD (i - a) (memRead m i) else memRead m i := by
  induction bs generalizing m a with
  | nil => simp [memWriteAll]
  | cons b bs ih =>
    rw [memWriteAll, ih (memWrite_wf h a b), memRead_write h]
    rcases Nat.lt_trichotomy i a with h1 | h1 | h1
    · simp [Nat.not_le.mpr h1, Nat.not_le.mpr (Nat.lt_succ_of_lt h1), Nat.ne_of_lt h1]
    · subst h1; simp
    · obtain ⟨k, rfl⟩ : ∃ k, i = a + 1 + k := ⟨i - (a + 1), by omega⟩
      have h2 : a + 1 + k - a = k + 1 := by omega
      have h3 : a + 1 + k - (a + 1) = k := by omega
      have h4 : a + 1 + k ≠ a := by omega
      have h5 : a ≤ a + 1 + k := by omega
      simp only [h2, h3, if_pos (Nat.le_add_right (a + 1) k), if_neg h4, if_pos h5, List.getD_cons_succ]

@[simp] theorem memReadAll_length (m : Memory) (a n : Nat) : (memReadAll m a n).length = n := by simp [memReadAll]

theorem memReadAll_add (m : Memory) (a n k : Nat) : memReadAll m a (n + k) = memReadAll m a n ++ memReadAll m (a + n) k := by
  simp [memReadAll, List.range_add, Nat.add_assoc]

theorem memReadAll_succ (m : Memory) (a n : Nat) : memReadAll m a (n + 1) = memReadAll m a n ++ [memRead m (a + n)] := by
  simp [memReadAll, List.range_succ]

theorem memWriteAll_append (m : Memory) (a : Nat) (xs ys : List Byte) :
    memWriteAll m a (xs ++ ys) = memWriteAll (memWriteAll m a xs) (a + xs.length) ys := by
  induction xs generalizing m a with
  | nil => rfl
  | cons x xs ih => simp only [List.cons_append, memWriteAll, ih, List.length_cons]; congr 1; omega

/-- Canonical memories that read the same everywhere are the same data. -/
theorem memory_ext_from {m m' : Memory} {lo : Nat} (h : memWfFrom lo m = true) (h' : memWfFrom lo m' = true)
    (hr : ∀ a, memRead m a = memRead m' a) : m = m' := by
  induction m generalizing m' lo with
  | nil =>
    cases m' with
    | nil => rfl
    | cons c m' =>
      obtain ⟨y, w⟩ := c
      simp only [memWfFrom, Bool.and_eq_true, decide_eq_true_eq] at h'
      have := hr y
      simp only [memRead, if_true] at this
      exact absurd this.symm h'.1.2
  | cons c m ih =>
    obtain ⟨x, v⟩ := c
    simp only [memWfFrom, Bool.and_eq_true, decide_eq_true_eq] at h
    cases m' with
    | nil =>
      have := hr x
      simp only [memRead, if_true] at this
      exact absurd this h.1.2
    | cons c' m' =>
      obtain ⟨y, w⟩ := c'
      simp only [memWfFrom, Bool.and_eq_true, decide_eq_true_eq] at h'
      have hx := hr x
      have hy := hr y
      simp only [memRead, if_true] at hx hy
      have hxy : x = y := by
        rcases Nat.lt_trichotomy x y with hl | he | hl
        · rw [if_neg (by omega), memRead_of_lt h'.2 (by omega)] at hx
          exact absurd hx h.1.2
        · exact he
        · rw [if_neg (by omega), memRead_of_lt h.2 (by omega)] at hy
          exact absurd hy.symm h'.1.2
      subst hxy
      simp only [if_true] at hx
      have htail : m = m' := by
        refine ih h.2 h'.2 fun a => ?_
        by_cases ha : x = a
        · rw [memRead_of_lt h.2 (by omega), memRead_of_lt h'.2 (by omega)]
        · have := hr a
          simpa only [memRead, if_neg ha] using this
      rw [hx, htail]

/-- A listed address is below the bound, so that an address above it is unlisted. -/
theorem memRead_of_below {m : Memory} {n a : Nat} (h : m.below n = true) (ha : n ≤ a) : memRead m a = memUnlisted := by
  induction m with
  | nil => rfl
  | cons c m ih =>
    obtain ⟨x, v⟩ := c
    simp only [Memory.below, List.all_cons, Bool.and_eq_true, decide_eq_true_eq] at h
    rw [memRead, if_neg (by omega)]
    exact ih h.2

theorem memConform_wf (n : Nat) (m : Memory) : Memory.wf (memConform n m) = true :=
  memWriteAll_wf (m := []) rfl _ _

theorem memConform_below (n : Nat) (m : Memory) : Memory.below n (memConform n m) = true :=
  memWriteAll_below (m := []) rfl _ _ (by simp)

theorem memRead_conform (n : Nat) (m : Memory) (a : Nat) :
    memRead (memConform n m) a = if a < n then memRead m a else memUnlisted := by
  unfold memConform
  rw [memRead_writeAll (m := []) rfl]
  simp only [Nat.zero_le, if_true, Nat.sub_zero]
  split
  · rw [List.getD_eq_getElem _ _ (by simpa using ‹a < n›)]
    simp [memReadAll]
  · rw [List.getD_eq_default _ _ (by simpa using ‹¬ a < n›)]
    rfl

/-- A memory of `n` bytes in canonical form is left as it is. -/
theorem memConform_of_wf {m : Memory} {n : Nat} (h : m.wf = true) (hb : m.below n = true) : memConform n m = m := by
  refine memory_ext_from (memConform_wf n m) h fun a => ?_
  rw [memRead_conform]
  split
  · rfl
  · exact (memRead_of_below hb (by omega)).symm

end Sys2Proof.Machine
end

