-- ==== Sys2Proof/Laws/State.lean ====
section
/-! SUPPORT. What each named update of the state does to each field: one lemma per field per update, true by rfl, so that no
later proof unfolds a record update. -/

namespace Sys2Proof.Machine

variable (s : State)

/-! ### `State.emit` -/

@[simp] theorem State.emit_cfg (e : OutEvent) : (s.emit e).cfg = s.cfg := rfl
@[simp] theorem State.emit_newCfg (e : OutEvent) : (s.emit e).newCfg = s.newCfg := rfl
@[simp] theorem State.emit_dec (e : OutEvent) : (s.emit e).dec = s.dec := rfl
@[simp] theorem State.emit_st (e : OutEvent) : (s.emit e).st = s.st := rfl
@[simp] theorem State.emit_sch (e : OutEvent) : (s.emit e).sch = s.sch := rfl
@[simp] theorem State.emit_timers (e : OutEvent) : (s.emit e).timers = s.timers := rfl
@[simp] theorem State.emit_loop (e : OutEvent) : (s.emit e).loop = s.loop := rfl
@[simp] theorem State.emit_out (e : OutEvent) : (s.emit e).out = s.out ++ [e] := rfl
@[simp] theorem State.emit_port (e : OutEvent) : (s.emit e).port = s.port := rfl
@[simp] theorem State.emit_freeCtr (e : OutEvent) : (s.emit e).freeCtr = s.freeCtr := rfl

/-! ### `State.raise` -/

@[simp] theorem State.raise_cfg (e : ErrKind) (n : Nat) : (s.raise e n).cfg = s.cfg := rfl
@[simp] theorem State.raise_newCfg (e : ErrKind) (n : Nat) : (s.raise e n).newCfg = s.newCfg := rfl
@[simp] theorem State.raise_dec (e : ErrKind) (n : Nat) : (s.raise e n).dec = s.dec := rfl
@[simp] theorem State.raise_st (e : ErrKind) (n : Nat) : (s.raise e n).st = s.st := rfl
@[simp] theorem State.raise_sch (e : ErrKind) (n : Nat) : (s.raise e n).sch = s.sch := rfl
@[simp] theorem State.raise_timers (e : ErrKind) (n : Nat) : (s.raise e n).timers = s.timers := rfl
@[simp] theorem State.raise_loop (e : ErrKind) (n : Nat) : (s.raise e n).loop = s.loop := rfl
@[simp] theorem State.raise_out (e : ErrKind) (n : Nat) : (s.raise e n).out = s.out ++ [.err e.code n] := rfl
@[simp] theorem State.raise_port (e : ErrKind) (n : Nat) : (s.raise e n).port = s.port := rfl
@[simp] theorem State.raise_freeCtr (e : ErrKind) (n : Nat) : (s.raise e n).freeCtr = s.freeCtr := rfl

/-! ### `State.seekAgain` -/

@[simp] theorem State.seekAgain_cfg : s.seekAgain.cfg = s.cfg := rfl
@[simp] theorem State.seekAgain_newCfg : s.seekAgain.newCfg = s.newCfg := rfl
@[simp] theorem State.seekAgain_dec : s.seekAgain.dec = { s.dec with fsm := .seeking, count := 0 } := rfl
@[simp] theorem State.seekAgain_st : s.seekAgain.st = s.st := rfl
@[simp] theorem State.seekAgain_sch : s.seekAgain.sch = s.sch := rfl
@[simp] theorem State.seekAgain_timers : s.seekAgain.timers = s.timers := rfl
@[simp] theorem State.seekAgain_loop : s.seekAgain.loop = s.loop := rfl
@[simp] theorem State.seekAgain_out : s.seekAgain.out = s.out := rfl
@[simp] theorem State.seekAgain_port : s.seekAgain.port = s.port := rfl
@[simp] theorem State.seekAgain_freeCtr : s.seekAgain.freeCtr = s.freeCtr := rfl

/-! ### `State.bufWrite` -/

@[simp] theorem State.bufWrite_cfg (i : Nat) (v : Byte) : (s.bufWrite i v).cfg = s.cfg := rfl
@[simp] theorem State.bufWrite_newCfg (i : Nat) (v : Byte) : (s.bufWrite i v).newCfg = s.newCfg := rfl
@[simp] theorem State.bufWrite_dec (i : Nat) (v : Byte) : (s.bufWrite i v).dec = { s.dec with buf := memWrite s.dec.buf i v } := rfl
@[simp] theorem State.bufWrite_st (i : Nat) (v : Byte) : (s.bufWrite i v).st = s.st := rfl
@[simp] theorem State.bufWrite_sch (i : Nat) (v : Byte) : (s.bufWrite i v).sch = s.sch := rfl
@[simp] theorem State.bufWrite_timers (i : Nat) (v : Byte) : (s.bufWrite i v).timers = s.timers := rfl
@[simp] theorem State.bufWrite_loop (i : Nat) (v : Byte) : (s.bufWrite i v).loop = s.loop := rfl
@[simp] theorem State.bufWrite_out (i : Nat) (v : Byte) : (s.bufWrite i v).out = s.out := rfl
@[simp] theorem State.bufWrite_port (i : Nat) (v : Byte) : (s.bufWrite i v).port = s.port := rfl
@[simp] theorem State.bufWrite_freeCtr (i : Nat) (v : Byte) : (s.bufWrite i v).freeCtr = s.freeCtr := rfl

/-! ### `State.updReq` -/

@[simp] theorem State.updReq_cfg (i : Nat) (f : ReqState → ReqState) : (s.updReq i f).cfg = s.cfg := rfl
@[simp] theorem State.updReq_newCfg (i : Nat) (f : ReqState → ReqState) : (s.updReq i f).newCfg = s.newCfg := rfl
@[simp] theorem State.updReq_dec (i : Nat) (f : ReqState → ReqState) : (s.updReq i f).dec = s.dec := rfl
@[simp] theorem State.updReq_st (i : Nat) (f : ReqState → ReqState) : (s.updReq i f).st = s.st := rfl
@[simp] theorem State.updReq_sch (i : Nat) (f : ReqState → ReqState) : (s.updReq i f).sch = s.sch.modify i f := rfl
@[simp] theorem State.updReq_timers (i : Nat) (f : ReqState → ReqState) : (s.updReq i f).timers = s.timers := rfl
@[simp] theorem State.updReq_loop (i : Nat) (f : ReqState → ReqState) : (s.updReq i f).loop = s.loop := rfl
@[simp] theorem State.updReq_out (i : Nat) (f : ReqState → ReqState) : (s.updReq i f).out = s.out := rfl
@[simp] theorem State.updReq_port (i : Nat) (f : ReqState → ReqState) : (s.updReq i f).port = s.port := rfl
@[simp] theorem State.updReq_freeCtr (i : Nat) (f : ReqState → ReqState) : (s.updReq i f).freeCtr = s.freeCtr := rfl

/-! ### `State.armTimer` -/

@[simp] theorem State.armTimer_cfg (t : Timer) : (s.armTimer t).cfg = s.cfg := rfl
@[simp] theorem State.armTimer_newCfg (t : Timer) : (s.armTimer t).newCfg = s.newCfg := rfl
@[simp] theorem State.armTimer_dec (t : Timer) : (s.armTimer t).dec = s.dec := rfl
@[simp] theorem State.armTimer_st (t : Timer) : (s.armTimer t).st = s.st := rfl
@[simp] theorem State.armTimer_sch (t : Timer) : (s.armTimer t).sch = s.sch := rfl
@[simp] theorem State.armTimer_timers (t : Timer) : (s.armTimer t).timers = s.timers ++ [t] := rfl
@[simp] theorem State.armTimer_loop (t : Timer) : (s.armTimer t).loop = s.loop := rfl
@[simp] theorem State.armTimer_out (t : Timer) : (s.armTimer t).out = s.out := rfl
@[simp] theorem State.armTimer_port (t : Timer) : (s.armTimer t).port = s.port := rfl
@[simp] theorem State.armTimer_freeCtr (t : Timer) : (s.armTimer t).freeCtr = s.freeCtr := rfl

/-! ### `State.dropTimer` -/

@[simp] theorem State.dropTimer_cfg (c : Byte) : (s.dropTimer c).cfg = s.cfg := rfl
@[simp] theorem State.dropTimer_newCfg (c : Byte) : (s.dropTimer c).newCfg = s.newCfg := rfl
@[simp] theorem State.dropTimer_dec (c : Byte) : (s.dropTimer c).dec = s.dec := rfl
@[simp] theorem State.dropTimer_st (c : Byte) : (s.dropTimer c).st = s.st := rfl
@[simp] theorem State.dropTimer_sch (c : Byte) : (s.dropTimer c).sch = s.sch := rfl
@[simp] theorem State.dropTimer_timers (c : Byte) : (s.dropTimer c).timers = s.timers.eraseP fun t => decide (t.code = c) := rfl
@[simp] theorem State.dropTimer_loop (c : Byte) : (s.dropTimer c).loop = s.loop := rfl
@[simp] theorem State.dropTimer_out (c : Byte) : (s.dropTimer c).out = s.out := rfl
@[simp] theorem State.dropTimer_port (c : Byte) : (s.dropTimer c).port = s.port := rfl
@[simp] theorem State.dropTimer_freeCtr (c : Byte) : (s.dropTimer c).freeCtr = s.freeCtr := rfl

/-! ### `State.setConnected` -/

@[simp] theorem State.setConnected_cfg (b : Bool) : (s.setConnected b).cfg = s.cfg := rfl
@[simp] theorem State.setConnected_newCfg (b : Bool) : (s.setConnected b).newCfg = s.newCfg := rfl
@[simp] theorem State.setConnected_dec (b : Bool) : (s.setConnected b).dec = s.dec := rfl
@[simp] theorem State.setConnected_st (b : Bool) : (s.setConnected b).st = { s.st with connected := b } := rfl
@[simp] theorem State.setConnected_sch (b : Bool) : (s.setConnected b).sch = s.sch := rfl
@[simp] theorem State.setConnected_timers (b : Bool) : (s.setConnected b).timers = s.timers := rfl
@[simp] theorem State.setConnected_loop (b : Bool) : (s.setConnected b).loop = s.loop := rfl
@[simp] theorem State.setConnected_out (b : Bool) : (s.setConnected b).out = s.out := rfl
@[simp] theorem State.setConnected_port (b : Bool) : (s.setConnected b).port = s.port := rfl
@[simp] theorem State.setConnected_freeCtr (b : Bool) : (s.setConnected b).freeCtr = s.freeCtr := rfl

/-! ### `State.countFree` -/

@[simp] theorem State.countFree_cfg : s.countFree.cfg = s.cfg := rfl
@[simp] theorem State.countFree_newCfg : s.countFree.newCfg = s.newCfg := rfl
@[simp] theorem State.countFree_dec : s.countFree.dec = s.dec := rfl
@[simp] theorem State.countFree_st : s.countFree.st = s.st := rfl
@[simp] theorem State.countFree_sch : s.countFree.sch = s.sch := rfl
@[simp] theorem State.countFree_timers : s.countFree.timers = s.timers := rfl
@[simp] theorem State.countFree_loop : s.countFree.loop = s.loop := rfl
@[simp] theorem State.countFree_out : s.countFree.out = s.out := rfl
@[simp] theorem State.countFree_port : s.countFree.port = s.port := rfl
@[simp] theorem State.countFree_freeCtr : s.countFree.freeCtr = s.freeCtr + 1 := rfl

/-! ### `State.setWant` -/

@[simp] theorem State.setWant_cfg (w : Wanted) (k : Nat) (v : Int) : (s.setWant w k v).cfg = s.cfg := rfl
@[simp] theorem State.setWant_newCfg (w : Wanted) (k : Nat) (v : Int) : (s.setWant w k v).newCfg = s.newCfg := rfl
@[simp] theorem State.setWant_dec (w : Wanted) (k : Nat) (v : Int) : (s.setWant w k v).dec = s.dec := rfl
@[simp] theorem State.setWant_st (w : Wanted) (k : Nat) (v : Int) : (s.setWant w k v).st = { s.st with want := w } := rfl
@[simp] theorem State.setWant_sch (w : Wanted) (k : Nat) (v : Int) : (s.setWant w k v).sch = s.sch := rfl
@[simp] theorem State.setWant_timers (w : Wanted) (k : Nat) (v : Int) : (s.setWant w k v).timers = s.timers := rfl
@[simp] theorem State.setWant_loop (w : Wanted) (k : Nat) (v : Int) : (s.setWant w k v).loop = s.loop := rfl
@[simp] theorem State.setWant_out (w : Wanted) (k : Nat) (v : Int) : (s.setWant w k v).out = s.out ++ [.setterResult k v] := rfl
@[simp] theorem State.setWant_port (w : Wanted) (k : Nat) (v : Int) : (s.setWant w k v).port = s.port := rfl
@[simp] theorem State.setWant_freeCtr (w : Wanted) (k : Nat) (v : Int) : (s.setWant w k v).freeCtr = s.freeCtr := rfl

/-! ### `State.present` -/

@[simp] theorem State.present_cfg (x : Input) : (s.present x).cfg = s.cfg := rfl
@[simp] theorem State.present_newCfg (x : Input) : (s.present x).newCfg = s.newCfg := rfl
@[simp] theorem State.present_dec (x : Input) : (s.present x).dec = s.dec := rfl
@[simp] theorem State.present_st (x : Input) : (s.present x).st = s.st := rfl
@[simp] theorem State.present_sch (x : Input) : (s.present x).sch = s.sch := rfl
@[simp] theorem State.present_timers (x : Input) : (s.present x).timers = s.timers := rfl
@[simp] theorem State.present_loop (x : Input) : (s.present x).loop = s.loop := rfl
@[simp] theorem State.present_out (x : Input) : (s.present x).out = s.out := rfl
@[simp] theorem State.present_port (x : Input) : (s.present x).port = x :: s.port := rfl
@[simp] theorem State.present_freeCtr (x : Input) : (s.present x).freeCtr = s.freeCtr := rfl

/-! ### The conditional updates: everything but the trace stays -/

@[simp] theorem State.notifySettings_cfg (b : Bool) : (s.notifySettings b).cfg = s.cfg := by
  unfold State.notifySettings; split <;> rfl
@[simp] theorem State.notifySettings_newCfg (b : Bool) : (s.notifySettings b).newCfg = s.newCfg := by
  unfold State.notifySettings; split <;> rfl
@[simp] theorem State.notifySettings_dec (b : Bool) : (s.notifySettings b).dec = s.dec := by
  unfold State.notifySettings; split <;> rfl
@[simp] theorem State.notifySettings_st (b : Bool) : (s.notifySettings b).st = s.st := by
  unfold State.notifySettings; split <;> rfl
@[simp] theorem State.notifySettings_sch (b : Bool) : (s.notifySettings b).sch = s.sch := by
  unfold State.notifySettings; split <;> rfl
@[simp] theorem State.notifySettings_timers (b : Bool) : (s.notifySettings b).timers = s.timers := by
  unfold State.notifySettings; split <;> rfl
@[simp] theorem State.notifySettings_loop (b : Bool) : (s.notifySettings b).loop = s.loop := by
  unfold State.notifySettings; split <;> rfl
@[simp] theorem State.notifySettings_port (b : Bool) : (s.notifySettings b).port = s.port := by
  unfold State.notifySettings; split <;> rfl
@[simp] theorem State.notifySettings_freeCtr (b : Bool) : (s.notifySettings b).freeCtr = s.freeCtr := by
  unfold State.notifySettings; split <;> rfl
@[simp] theorem State.notifyStatus_cfg (x : Status) : (s.notifyStatus x).cfg = s.cfg := by
  unfold State.notifyStatus; split <;> rfl
@[simp] theorem State.notifyStatus_newCfg (x : Status) : (s.notifyStatus x).newCfg = s.newCfg := by
  unfold State.notifyStatus; split <;> rfl
@[simp] theorem State.notifyStatus_dec (x : Status) : (s.notifyStatus x).dec = s.dec := by
  unfold State.notifyStatus; split <;> rfl
@[simp] theorem State.notifyStatus_st (x : Status) : (s.notifyStatus x).st = s.st := by
  unfold State.notifyStatus; split <;> rfl
@[simp] theorem State.notifyStatus_sch (x : Status) : (s.notifyStatus x).sch = s.sch := by
  unfold State.notifyStatus; split <;> rfl
@[simp] theorem State.notifyStatus_timers (x : Status) : (s.notifyStatus x).timers = s.timers := by
  unfold State.notifyStatus; split <;> rfl
@[simp] theorem State.notifyStatus_loop (x : Status) : (s.notifyStatus x).loop = s.loop := by
  unfold State.notifyStatus; split <;> rfl
@[simp] theorem State.notifyStatus_port (x : Status) : (s.notifyStatus x).port = s.port := by
  unfold State.notifyStatus; split <;> rfl
@[simp] theorem State.notifyStatus_freeCtr (x : Status) : (s.notifyStatus x).freeCtr = s.freeCtr := by
  unfold State.notifyStatus; split <;> rfl
@[simp] theorem State.gainFault_cfg (k : Nat) (b : Bool) : (s.gainFault k b).cfg = s.cfg := by
  unfold State.gainFault; split <;> rfl
@[simp] theorem State.gainFault_newCfg (k : Nat) (b : Bool) : (s.gainFault k b).newCfg = s.newCfg := by
  unfold State.gainFault; split <;> rfl
@[simp] theorem State.gainFault_dec (k : Nat) (b : Bool) : (s.gainFault k b).dec = s.dec := by
  unfold State.gainFault; split <;> rfl
@[simp] theorem State.gainFault_st (k : Nat) (b : Bool) : (s.gainFault k b).st = s.st := by
  unfold State.gainFault; split <;> rfl
@[simp] theorem State.gainFault_sch (k : Nat) (b : Bool) : (s.gainFault k b).sch = s.sch := by
  unfold State.gainFault; split <;> rfl
@[simp] theorem State.gainFault_timers (k : Nat) (b : Bool) : (s.gainFault k b).timers = s.timers := by
  unfold State.gainFault; split <;> rfl
@[simp] theorem State.gainFault_loop (k : Nat) (b : Bool) : (s.gainFault k b).loop = s.loop := by
  unfold State.gainFault; split <;> rfl
@[simp] theorem State.gainFault_port (k : Nat) (b : Bool) : (s.gainFault k b).port = s.port := by
  unfold State.gainFault; split <;> rfl
@[simp] theorem State.gainFault_freeCtr (k : Nat) (b : Bool) : (s.gainFault k b).freeCtr = s.freeCtr := by
  unfold State.gainFault; split <;> rfl
@[simp] theorem State.checkSym_cfg (k n : Nat) (v : Byte) : (s.checkSym k n v).cfg = s.cfg := by
  unfold State.checkSym; split <;> rfl
@[simp] theorem State.checkSym_newCfg (k n : Nat) (v : Byte) : (s.checkSym k n v).newCfg = s.newCfg := by
  unfold State.checkSym; split <;> rfl
@[simp] theorem State.checkSym_dec (k n : Nat) (v : Byte) : (s.checkSym k n v).dec = s.dec := by
  unfold State.checkSym; split <;> rfl
@[simp] theorem State.checkSym_st (k n : Nat) (v : Byte) : (s.checkSym k n v).st = s.st := by
  unfold State.checkSym; split <;> rfl
@[simp] theorem State.checkSym_sch (k n : Nat) (v : Byte) : (s.checkSym k n v).sch = s.sch := by
  unfold State.checkSym; split <;> rfl
@[simp] theorem State.checkSym_timers (k n : Nat) (v : Byte) : (s.checkSym k n v).timers = s.timers := by
  unfold State.checkSym; split <;> rfl
@[simp] theorem State.checkSym_loop (k n : Nat) (v : Byte) : (s.checkSym k n v).loop = s.loop := by
  unfold State.checkSym; split <;> rfl
@[simp] theorem State.checkSym_port (k n : Nat) (v : Byte) : (s.checkSym k n v).port = s.port := by
  unfold State.checkSym; split <;> rfl
@[simp] theorem State.checkSym_freeCtr (k n : Nat) (v : Byte) : (s.checkSym k n v).freeCtr = s.freeCtr := by
  unfold State.checkSym; split <;> rfl

/-! ### The conditional updates: the trace -/

theorem State.notifySettings_out (b : Bool) :
    (s.notifySettings b).out = s.out ++ if b then [.settingsChanged] else [] := by
  cases b <;> simp [State.notifySettings]

theorem State.notifyStatus_out (x : Status) :
    (s.notifyStatus x).out = s.out ++ if statusEqual s.cfg x s.st.status then [] else [.statusChanged] := by
  unfold State.notifyStatus; split <;> simp_all

theorem State.gainFault_out (k : Nat) (b : Bool) :
    (s.gainFault k b).out = s.out ++ if b then [.err 6 k] else [] := by
  cases b <;> simp [State.gainFault, ErrKind.code]

theorem State.checkSym_out (k n : Nat) (v : Byte) :
    (s.checkSym k n v).out = s.out ++ if v.toNat < n then [] else [.err 5 (k * 256 + v.toNat)] := by
  unfold State.checkSym symResolves
  by_cases h : v.toNat < n <;> simp [h, ErrKind.code]

/-! ### Keeping the flags of the Store -/

section
variable (old st : Store)
@[simp] theorem Store.keepFlags_connected : (old.keepFlags st).connected = old.connected := rfl
@[simp] theorem Store.keepFlags_firstRun : (old.keepFlags st).firstRun = old.firstRun := rfl
@[simp] theorem Store.keepFlags_extTempMode : (old.keepFlags st).extTempMode = old.extTempMode := rfl
@[simp] theorem Store.keepFlags_haveRoomTemp : (old.keepFlags st).haveRoomTemp = old.haveRoomTemp := rfl
@[simp] theorem Store.keepFlags_cur : (old.keepFlags st).cur = st.cur := rfl
@[simp] theorem Store.keepFlags_want : (old.keepFlags st).want = st.want := rfl
@[simp] theorem Store.keepFlags_status : (old.keepFlags st).status = st.status := rfl
@[simp] theorem Store.keepFlags_timerRaw : (old.keepFlags st).timerRaw = st.timerRaw := rfl
@[simp] theorem Store.keepFlags_func : (old.keepFlags st).func = st.func := rfl
@[simp] theorem Store.keepFlags_lastToggleAt : (old.keepFlags st).lastToggleAt = st.lastToggleAt := rfl
@[simp] theorem Store.keepFlags_fxRegs : (old.keepFlags st).fxRegs = st.fxRegs := rfl
end

end Sys2Proof.Machine
end

