-- ==== Sys2Proof/Laws/Ops.lean ====
section
/-! SUPPORT. For each shared operation, once, what it can do: the cases of its result, and the fields it leaves alone. Later
proofs cite these and do not unfold the operation. -/

namespace Sys2Proof.Machine

/-! ### Storing a received byte (40 R112, R115) -/

/-- `storeByte` answers exactly when `count` is an index of the buffer, and then writes there and counts. -/
theorem storeByte_eq_some {s t : State} {b : Byte} (h : s.storeByte b = some t) :
    s.dec.count < s.cfg.bufCap ∧
    t = { s with dec := { s.dec with buf := memWrite s.dec.buf s.dec.count b, count := s.dec.count + 1 } } := by
  unfold State.storeByte at h
  split at h
  · exact ⟨‹_›, by simpa using h.symm⟩
  · cases h

theorem storeByte_of_lt {s : State} {b : Byte} (h : s.dec.count < s.cfg.bufCap) :
    s.storeByte b =
      some { s with dec := { s.dec with buf := memWrite s.dec.buf s.dec.count b, count := s.dec.count + 1 } } := by
  simp [State.storeByte, h]

theorem storeByte_eq_none {s : State} {b : Byte} : s.storeByte b = none ↔ s.cfg.bufCap ≤ s.dec.count := by
  unfold State.storeByte
  split <;> simp <;> omega

/-! ### Receiving a byte (40 R110 to R118) -/

theorem rxByte_seeking {s : State} {b : Byte} {now : Time} (hf : s.dec.fsm = .seeking) :
    exec (.rxByte b now) s = .next (seek b s) := by
  show execRxByte b now s = _
  unfold execRxByte; rw [hf]

/-- In the header, with room in the buffer: the byte is stored, and the fifth one ends the header. -/
theorem rxByte_header {s : State} {b : Byte} {now : Time} (hf : s.dec.fsm = .readingHeader)
    (hb : s.dec.count < s.cfg.bufCap) :
    exec (.rxByte b now) s =
      .next (if s.dec.count + 1 = 5 then
          headerDone b { s with
            dec := { s.dec with buf := memWrite s.dec.buf s.dec.count b, count := s.dec.count + 1 } }
        else { s with dec := { s.dec with buf := memWrite s.dec.buf s.dec.count b, count := s.dec.count + 1 } }) := by
  show execRxByte b now s = _
  unfold execRxByte; rw [hf]
  show header b s = _
  unfold header; rw [storeByte_of_lt hb]

/-- In the body, with room in the buffer: the byte is stored; it completes the frame, or overflows, or neither. -/
theorem rxByte_body {s : State} {b : Byte} {now : Time} (hf : s.dec.fsm = .readingBody)
    (hb : s.dec.count < s.cfg.bufCap) :
    exec (.rxByte b now) s =
      if s.dec.count + 1 = s.dec.len.toNat + 6 then
        complete now { s with
          dec := { s.dec with buf := memWrite s.dec.buf s.dec.count b, count := s.dec.count + 1 } }
      else if s.cfg.bufCap ≤ s.dec.count + 1 then
        .next (overflow { s with
          dec := { s.dec with buf := memWrite s.dec.buf s.dec.count b, count := s.dec.count + 1 } })
      else .next { s with
        dec := { s.dec with buf := memWrite s.dec.buf s.dec.count b, count := s.dec.count + 1 } } := by
  show execRxByte b now s = _
  unfold execRxByte; rw [hf]
  show body b now s = _
  unfold body; rw [storeByte_of_lt hb]

/-- With no room in the buffer, a byte of a frame faults (log 14). -/
theorem rxByte_fault {s : State} {b : Byte} {now : Time} (hf : s.dec.fsm ≠ .seeking) (hb : s.cfg.bufCap ≤ s.dec.count) :
    exec (.rxByte b now) s = .fault (.bufferIndex s.dec.count) := by
  show execRxByte b now s = _
  unfold execRxByte
  cases h : s.dec.fsm
  · exact absurd h hf
  · show header b s = _
    unfold header; rw [storeByte_eq_none.mpr hb]
  · show body b now s = _
    unfold body; rw [storeByte_eq_none.mpr hb]

/-! ### The scheduler (42) -/

theorem findReq_eq_none {c : Config} {code : Byte} (h : ∀ q ∈ c.req, q.code ≠ code) : findReq c code = none := by
  unfold findReq; rw [List.findIdx?_eq_none_iff]; intro x hx; simpa using h x hx

/-- R181: the codes of a well-formed configuration are distinct, so an entry is the one with its code. -/
theorem findReq_of_getElem {c : Config} {i : Nat} {q : ReqCfg} (hw : reqCodesWf c = true) (h : c.req[i]? = some q) :
    findReq c q.code = some i := by
  unfold findReq; rw [List.findIdx?_eq_some_iff_getElem]
  obtain ⟨h1, h2⟩ := List.getElem?_eq_some_iff.mp h
  refine ⟨h1, by simp [h2], fun j hj => ?_⟩
  simp only [reqCodesWf, Bool.and_eq_true, decide_eq_true_eq] at hw
  simp only [decide_eq_true_eq]
  intro he
  have := (List.Nodup.getElem_inj_iff hw.2 (i := j) (j := i) (hi := by simp; omega) (hj := by simpa)).mp (by simp [he, h2])
  omega

/-- R181: the located entry is one of the list, and the least with the code. -/
theorem findReq_some {c : Config} {code : Byte} {i : Nat} (h : findReq c code = some i) :
    ∃ q, c.req[i]? = some q ∧ q.code = code := by
  unfold findReq at h
  rw [List.findIdx?_eq_some_iff_getElem] at h
  obtain ⟨hi, hc, _⟩ := h
  exact ⟨c.req[i], by simp [hi], by simpa using hc⟩

/-- R182: the scan answers the first sendable index from its start on. -/
theorem scanFrom_eq_some {s : State} {now : Time} {start i : Nat} (h : scanFrom s now start = some i) :
    start ≤ i ∧ i < s.cfg.req.length ∧ sendable s now i = true ∧
    ∀ j, start ≤ j → j < i → sendable s now j = false := by
  unfold scanFrom at h
  rw [List.find?_eq_some_iff_getElem] at h
  obtain ⟨hs, k, hk, he, hb⟩ := h
  simp only [List.length_drop, List.length_range] at hk
  simp only [List.getElem_drop, List.getElem_range] at he
  refine ⟨by omega, by omega, hs, fun j h1 h2 => ?_⟩
  have := hb (j - start) (by omega)
  simp only [List.getElem_drop, List.getElem_range] at this
  simpa [Nat.add_sub_cancel' h1] using this

/-- R183: the scan answers nothing when nothing from its start on is sendable. -/
theorem scanFrom_eq_none {s : State} {now : Time} {start : Nat} (h : scanFrom s now start = none) :
    ∀ j, start ≤ j → j < s.cfg.req.length → sendable s now j = false := by
  unfold scanFrom at h
  rw [List.find?_eq_none] at h
  intro j h1 h2
  have hm : j ∈ (List.range s.cfg.req.length).drop start := by
    rw [List.mem_iff_getElem]
    refine ⟨j - start, by simp; omega, ?_⟩
    simp only [List.getElem_drop, List.getElem_range]; omega
  simpa using h j hm

/-- R182, R183: `send_next_after` sends one request, the first that may be sent, or ends the round. -/
theorem sendNextAfter_cases (prev : Byte) (now : Time) (s : State) :
    (∃ i q, scanFrom s now (startIndex s.cfg prev) = some i ∧ s.cfg.req[i]? = some q ∧
      sendNextAfter prev now s = sendReq i q now s) ∨
    (scanFrom s now (startIndex s.cfg prev) = none ∧ sendNextAfter prev now s = s.emit .cycleDone) := by
  unfold sendNextAfter
  cases h : scanFrom s now (startIndex s.cfg prev) with
  | none => exact .inr ⟨rfl, rfl⟩
  | some i =>
    have hi : i < s.cfg.req.length := (scanFrom_eq_some h).2.1
    exact .inl ⟨i, s.cfg.req[i], rfl, by simp [hi], by simp [hi]⟩

@[simp] theorem sendReq_cfg (i : Nat) (q : ReqCfg) (now : Time) (s : State) : (sendReq i q now s).cfg = s.cfg := rfl
@[simp] theorem sendReq_newCfg (i : Nat) (q : ReqCfg) (now : Time) (s : State) : (sendReq i q now s).newCfg = s.newCfg := rfl
@[simp] theorem sendReq_dec (i : Nat) (q : ReqCfg) (now : Time) (s : State) : (sendReq i q now s).dec = s.dec := rfl
@[simp] theorem sendReq_st (i : Nat) (q : ReqCfg) (now : Time) (s : State) : (sendReq i q now s).st = s.st := rfl
@[simp] theorem sendReq_loop (i : Nat) (q : ReqCfg) (now : Time) (s : State) : (sendReq i q now s).loop = s.loop := rfl
@[simp] theorem sendReq_port (i : Nat) (q : ReqCfg) (now : Time) (s : State) : (sendReq i q now s).port = s.port := rfl
@[simp] theorem sendReq_freeCtr (i : Nat) (q : ReqCfg) (now : Time) (s : State) : (sendReq i q now s).freeCtr = s.freeCtr := rfl

@[simp] theorem sendNextAfter_cfg (prev : Byte) (now : Time) (s : State) : (sendNextAfter prev now s).cfg = s.cfg := by
  rcases sendNextAfter_cases prev now s with ⟨i, q, _, _, h⟩ | ⟨_, h⟩ <;> rw [h] <;> rfl
@[simp] theorem sendNextAfter_newCfg (prev : Byte) (now : Time) (s : State) : (sendNextAfter prev now s).newCfg = s.newCfg := by
  rcases sendNextAfter_cases prev now s with ⟨i, q, _, _, h⟩ | ⟨_, h⟩ <;> rw [h] <;> rfl
@[simp] theorem sendNextAfter_dec (prev : Byte) (now : Time) (s : State) : (sendNextAfter prev now s).dec = s.dec := by
  rcases sendNextAfter_cases prev now s with ⟨i, q, _, _, h⟩ | ⟨_, h⟩ <;> rw [h] <;> rfl
@[simp] theorem sendNextAfter_st (prev : Byte) (now : Time) (s : State) : (sendNextAfter prev now s).st = s.st := by
  rcases sendNextAfter_cases prev now s with ⟨i, q, _, _, h⟩ | ⟨_, h⟩ <;> rw [h] <;> rfl
@[simp] theorem sendNextAfter_loop (prev : Byte) (now : Time) (s : State) : (sendNextAfter prev now s).loop = s.loop := by
  rcases sendNextAfter_cases prev now s with ⟨i, q, _, _, h⟩ | ⟨_, h⟩ <;> rw [h] <;> rfl
@[simp] theorem sendNextAfter_port (prev : Byte) (now : Time) (s : State) : (sendNextAfter prev now s).port = s.port := by
  rcases sendNextAfter_cases prev now s with ⟨i, q, _, _, h⟩ | ⟨_, h⟩ <;> rw [h] <;> rfl
@[simp] theorem sendNextAfter_freeCtr (prev : Byte) (now : Time) (s : State) : (sendNextAfter prev now s).freeCtr = s.freeCtr := by
  rcases sendNextAfter_cases prev now s with ⟨i, q, _, _, h⟩ | ⟨_, h⟩ <;> rw [h] <;> rfl

@[simp] theorem markResponseSeen_cfg (i : Nat) (code : Byte) (s : State) : (markResponseSeen i code s).cfg = s.cfg := rfl
@[simp] theorem markResponseSeen_newCfg (i : Nat) (code : Byte) (s : State) : (markResponseSeen i code s).newCfg = s.newCfg := rfl
@[simp] theorem markResponseSeen_dec (i : Nat) (code : Byte) (s : State) : (markResponseSeen i code s).dec = s.dec := rfl
@[simp] theorem markResponseSeen_timers (i : Nat) (code : Byte) (s : State) : (markResponseSeen i code s).timers = s.timers := rfl
@[simp] theorem markResponseSeen_loop (i : Nat) (code : Byte) (s : State) : (markResponseSeen i code s).loop = s.loop := rfl
@[simp] theorem markResponseSeen_port (i : Nat) (code : Byte) (s : State) : (markResponseSeen i code s).port = s.port := rfl
@[simp] theorem markResponseSeen_freeCtr (i : Nat) (code : Byte) (s : State) : (markResponseSeen i code s).freeCtr = s.freeCtr := rfl

/-- R185: with the default `on_response` the mark leaves the Store alone. -/
theorem markResponseSeen_st {i : Nat} {code : Byte} {s : State} (h : defaultResponses s.cfg) :
    (markResponseSeen i code s).st = s.st := by
  unfold markResponseSeen
  cases hq : s.cfg.req[i]? with
  | none => rfl
  | some q =>
    have : q.onResponse = .identity := h q (List.mem_of_getElem? hq)
    simp [this, onResponseOf]

/-- R185: the mark leaves the Store alone, or leaves what an `on_response` makes of it: a Store of the block with the flags it
had. -/
theorem markResponseSeen_st_cases (i : Nat) (code : Byte) (s : State) :
    (markResponseSeen i code s).st = s.st ∨
    ∃ st, (markResponseSeen i code s).st = s.st.keepFlags (Store.conform s.cfg st) := by
  unfold markResponseSeen
  cases hq : s.cfg.req[i]? with
  | none => exact .inl rfl
  | some q =>
    cases hf : q.onResponse with
    | identity => exact .inl (by simp [hf, onResponseOf])
    | impl n => exact .inr ⟨Config.onResponseImpl n s.st, by simp [hf, onResponseOf]⟩

/-- R188: an unmatched code does nothing; a matched one is marked, and the next request is sent only if it was in flight. -/
theorem processResponse_cases (code : Byte) (now : Time) (s : State) :
    (findReq s.cfg code = none ∧ processResponse code now s = s) ∨
    (∃ i, findReq s.cfg code = some i ∧ s.awaitingAt i = true ∧
      processResponse code now s = sendNextAfter code now (markResponseSeen i code s)) ∨
    (∃ i, findReq s.cfg code = some i ∧ s.awaitingAt i = false ∧
      processResponse code now s = markResponseSeen i code s) := by
  unfold processResponse
  cases h : findReq s.cfg code with
  | none => exact .inl ⟨rfl, rfl⟩
  | some i =>
    cases ha : s.awaitingAt i
    · exact .inr (.inr ⟨i, rfl, ha, by simp [ha]⟩)
    · exact .inr (.inl ⟨i, rfl, ha, by simp [ha]⟩)

@[simp] theorem processResponse_cfg (code : Byte) (now : Time) (s : State) : (processResponse code now s).cfg = s.cfg := by
  rcases processResponse_cases code now s with ⟨_, h⟩ | ⟨i, _, _, h⟩ | ⟨i, _, _, h⟩ <;> rw [h] <;> simp
@[simp] theorem processResponse_newCfg (code : Byte) (now : Time) (s : State) : (processResponse code now s).newCfg = s.newCfg := by
  rcases processResponse_cases code now s with ⟨_, h⟩ | ⟨i, _, _, h⟩ | ⟨i, _, _, h⟩ <;> rw [h] <;> simp
@[simp] theorem processResponse_dec (code : Byte) (now : Time) (s : State) : (processResponse code now s).dec = s.dec := by
  rcases processResponse_cases code now s with ⟨_, h⟩ | ⟨i, _, _, h⟩ | ⟨i, _, _, h⟩ <;> rw [h] <;> simp
@[simp] theorem processResponse_loop (code : Byte) (now : Time) (s : State) : (processResponse code now s).loop = s.loop := by
  rcases processResponse_cases code now s with ⟨_, h⟩ | ⟨i, _, _, h⟩ | ⟨i, _, _, h⟩ <;> rw [h] <;> simp
@[simp] theorem processResponse_port (code : Byte) (now : Time) (s : State) : (processResponse code now s).port = s.port := by
  rcases processResponse_cases code now s with ⟨_, h⟩ | ⟨i, _, _, h⟩ | ⟨i, _, _, h⟩ <;> rw [h] <;> simp
@[simp] theorem processResponse_freeCtr (code : Byte) (now : Time) (s : State) : (processResponse code now s).freeCtr = s.freeCtr := by
  rcases processResponse_cases code now s with ⟨_, h⟩ | ⟨i, _, _, h⟩ | ⟨i, _, _, h⟩ <;> rw [h] <;> simp

/-- R188: with the default `on_response` the scheduler leaves the Store alone. -/
theorem processResponse_st {code : Byte} {now : Time} {s : State} (h : defaultResponses s.cfg) :
    (processResponse code now s).st = s.st := by
  rcases processResponse_cases code now s with ⟨_, e⟩ | ⟨i, _, _, e⟩ | ⟨i, _, _, e⟩ <;> rw [e]
  · rw [sendNextAfter_st, markResponseSeen_st h]
  · exact markResponseSeen_st h

/-- R185, R188: what the scheduler makes of the Store, for any `on_response`. -/
theorem processResponse_st_cases (code : Byte) (now : Time) (s : State) :
    (processResponse code now s).st = s.st ∨
    ∃ st, (processResponse code now s).st = s.st.keepFlags (Store.conform s.cfg st) := by
  rcases processResponse_cases code now s with ⟨_, e⟩ | ⟨i, _, _, e⟩ | ⟨i, _, _, e⟩ <;> rw [e]
  · exact .inl rfl
  · rw [sendNextAfter_st]
    exact markResponseSeen_st_cases i code s
  · exact markResponseSeen_st_cases i code s

/-- 10 R30: no `on_response` writes a flag of the Store. -/
theorem markResponseSeen_flags (i : Nat) (code : Byte) (s : State) :
    (markResponseSeen i code s).st.connected = s.st.connected ∧
    (markResponseSeen i code s).st.firstRun = s.st.firstRun ∧
    (markResponseSeen i code s).st.extTempMode = s.st.extTempMode ∧
    (markResponseSeen i code s).st.haveRoomTemp = s.st.haveRoomTemp := by
  rcases markResponseSeen_st_cases i code s with h | ⟨st, h⟩ <;> rw [h] <;> exact ⟨rfl, rfl, rfl, rfl⟩

/-- R187: a stale or unknown timer does nothing; one of a request in flight counts a failure and moves the cycle on. -/
theorem timeoutEffect_cases (code : Byte) (now : Time) (s : State) :
    ((findReq s.cfg code = none ∨ ∃ i, findReq s.cfg code = some i ∧ s.awaitingAt i = false) ∧
      timeoutEffect code now s = s) ∨
    (∃ i q, findReq s.cfg code = some i ∧ s.cfg.req[i]? = some q ∧ s.awaitingAt i = true ∧
      timeoutEffect code now s = sendNextAfter code now
        ((s.raise .nonResponse code.toNat).updReq i (ReqState.timedOut q.maxFailures))) := by
  unfold timeoutEffect
  cases h : findReq s.cfg code with
  | none => exact .inl ⟨.inl rfl, rfl⟩
  | some i =>
    obtain ⟨q, hq, _⟩ := findReq_some h
    cases ha : s.awaitingAt i
    · exact .inl ⟨.inr ⟨i, rfl, ha⟩, by simp [ha]⟩
    · exact .inr ⟨i, q, rfl, hq, ha, by simp [ha, hq]⟩

@[simp] theorem timeoutEffect_cfg (code : Byte) (now : Time) (s : State) : (timeoutEffect code now s).cfg = s.cfg := by
  rcases timeoutEffect_cases code now s with ⟨_, h⟩ | ⟨i, q, _, _, _, h⟩ <;> simp [h]
@[simp] theorem timeoutEffect_newCfg (code : Byte) (now : Time) (s : State) : (timeoutEffect code now s).newCfg = s.newCfg := by
  rcases timeoutEffect_cases code now s with ⟨_, h⟩ | ⟨i, q, _, _, _, h⟩ <;> simp [h]
@[simp] theorem timeoutEffect_dec (code : Byte) (now : Time) (s : State) : (timeoutEffect code now s).dec = s.dec := by
  rcases timeoutEffect_cases code now s with ⟨_, h⟩ | ⟨i, q, _, _, _, h⟩ <;> simp [h]
@[simp] theorem timeoutEffect_st (code : Byte) (now : Time) (s : State) : (timeoutEffect code now s).st = s.st := by
  rcases timeoutEffect_cases code now s with ⟨_, h⟩ | ⟨i, q, _, _, _, h⟩ <;> simp [h]
@[simp] theorem timeoutEffect_loop (code : Byte) (now : Time) (s : State) : (timeoutEffect code now s).loop = s.loop := by
  rcases timeoutEffect_cases code now s with ⟨_, h⟩ | ⟨i, q, _, _, _, h⟩ <;> simp [h]
@[simp] theorem timeoutEffect_port (code : Byte) (now : Time) (s : State) : (timeoutEffect code now s).port = s.port := by
  rcases timeoutEffect_cases code now s with ⟨_, h⟩ | ⟨i, q, _, _, _, h⟩ <;> simp [h]
@[simp] theorem timeoutEffect_freeCtr (code : Byte) (now : Time) (s : State) : (timeoutEffect code now s).freeCtr = s.freeCtr := by
  rcases timeoutEffect_cases code now s with ⟨_, h⟩ | ⟨i, q, _, _, _, h⟩ <;> simp [h]

/-! ### The frame effects (41) -/

@[simp] theorem applyAck_cfg (s : State) : (applyAck s).cfg = s.cfg := by simp [applyAck]
@[simp] theorem applyAck_newCfg (s : State) : (applyAck s).newCfg = s.newCfg := by simp [applyAck]
@[simp] theorem applyAck_dec (s : State) : (applyAck s).dec = s.dec := by simp [applyAck]
@[simp] theorem applyAck_sch (s : State) : (applyAck s).sch = s.sch := by simp [applyAck]
@[simp] theorem applyAck_timers (s : State) : (applyAck s).timers = s.timers := by simp [applyAck]
@[simp] theorem applyAck_loop (s : State) : (applyAck s).loop = s.loop := by simp [applyAck]
@[simp] theorem applyAck_port (s : State) : (applyAck s).port = s.port := by simp [applyAck]
@[simp] theorem applyAck_freeCtr (s : State) : (applyAck s).freeCtr = s.freeCtr := by simp [applyAck]

@[simp] theorem applySettings_cfg (data : List Byte) (s : State) : (applySettings data s).cfg = s.cfg := by
  unfold applySettings; split <;> simp
@[simp] theorem applySettings_newCfg (data : List Byte) (s : State) : (applySettings data s).newCfg = s.newCfg := by
  unfold applySettings; split <;> simp
@[simp] theorem applySettings_dec (data : List Byte) (s : State) : (applySettings data s).dec = s.dec := by
  unfold applySettings; split <;> simp
@[simp] theorem applySettings_sch (data : List Byte) (s : State) : (applySettings data s).sch = s.sch := by
  unfold applySettings; split <;> simp
@[simp] theorem applySettings_timers (data : List Byte) (s : State) : (applySettings data s).timers = s.timers := by
  unfold applySettings; split <;> simp
@[simp] theorem applySettings_loop (data : List Byte) (s : State) : (applySettings data s).loop = s.loop := by
  unfold applySettings; split <;> simp
@[simp] theorem applySettings_port (data : List Byte) (s : State) : (applySettings data s).port = s.port := by
  unfold applySettings; split <;> simp

@[simp] theorem applyRoomtemp_cfg (data : List Byte) (s : State) : (applyRoomtemp data s).cfg = s.cfg := by
  unfold applyRoomtemp; split <;> simp
@[simp] theorem applyRoomtemp_newCfg (data : List Byte) (s : State) : (applyRoomtemp data s).newCfg = s.newCfg := by
  unfold applyRoomtemp; split <;> simp
@[simp] theorem applyRoomtemp_dec (data : List Byte) (s : State) : (applyRoomtemp data s).dec = s.dec := by
  unfold applyRoomtemp; split <;> simp
@[simp] theorem applyRoomtemp_sch (data : List Byte) (s : State) : (applyRoomtemp data s).sch = s.sch := by
  unfold applyRoomtemp; split <;> simp
@[simp] theorem applyRoomtemp_timers (data : List Byte) (s : State) : (applyRoomtemp data s).timers = s.timers := by
  unfold applyRoomtemp; split <;> simp
@[simp] theorem applyRoomtemp_loop (data : List Byte) (s : State) : (applyRoomtemp data s).loop = s.loop := by
  unfold applyRoomtemp; split <;> simp
@[simp] theorem applyRoomtemp_port (data : List Byte) (s : State) : (applyRoomtemp data s).port = s.port := by
  unfold applyRoomtemp; split <;> simp

@[simp] theorem applyTimers_cfg (data : List Byte) (s : State) : (applyTimers data s).cfg = s.cfg := by
  unfold applyTimers; split <;> simp
@[simp] theorem applyTimers_newCfg (data : List Byte) (s : State) : (applyTimers data s).newCfg = s.newCfg := by
  unfold applyTimers; split <;> simp
@[simp] theorem applyTimers_dec (data : List Byte) (s : State) : (applyTimers data s).dec = s.dec := by
  unfold applyTimers; split <;> simp
@[simp] theorem applyTimers_sch (data : List Byte) (s : State) : (applyTimers data s).sch = s.sch := by
  unfold applyTimers; split <;> simp
@[simp] theorem applyTimers_timers (data : List Byte) (s : State) : (applyTimers data s).timers = s.timers := by
  unfold applyTimers; split <;> simp
@[simp] theorem applyTimers_loop (data : List Byte) (s : State) : (applyTimers data s).loop = s.loop := by
  unfold applyTimers; split <;> simp
@[simp] theorem applyTimers_port (data : List Byte) (s : State) : (applyTimers data s).port = s.port := by
  unfold applyTimers; split <;> simp

@[simp] theorem applyStatus_cfg (data : List Byte) (s : State) : (applyStatus data s).cfg = s.cfg := by
  unfold applyStatus; split <;> simp
@[simp] theorem applyStatus_newCfg (data : List Byte) (s : State) : (applyStatus data s).newCfg = s.newCfg := by
  unfold applyStatus; split <;> simp
@[simp] theorem applyStatus_dec (data : List Byte) (s : State) : (applyStatus data s).dec = s.dec := by
  unfold applyStatus; split <;> simp
@[simp] theorem applyStatus_sch (data : List Byte) (s : State) : (applyStatus data s).sch = s.sch := by
  unfold applyStatus; split <;> simp
@[simp] theorem applyStatus_timers (data : List Byte) (s : State) : (applyStatus data s).timers = s.timers := by
  unfold applyStatus; split <;> simp
@[simp] theorem applyStatus_loop (data : List Byte) (s : State) : (applyStatus data s).loop = s.loop := by
  unfold applyStatus; split <;> simp
@[simp] theorem applyStatus_port (data : List Byte) (s : State) : (applyStatus data s).port = s.port := by
  unfold applyStatus; split <;> simp

@[simp] theorem applyFunc_cfg (base : Nat) (data : List Byte) (s : State) : (applyFunc base data s).cfg = s.cfg := by
  unfold applyFunc; split <;> simp
@[simp] theorem applyFunc_newCfg (base : Nat) (data : List Byte) (s : State) : (applyFunc base data s).newCfg = s.newCfg := by
  unfold applyFunc; split <;> simp
@[simp] theorem applyFunc_dec (base : Nat) (data : List Byte) (s : State) : (applyFunc base data s).dec = s.dec := by
  unfold applyFunc; split <;> simp
@[simp] theorem applyFunc_sch (base : Nat) (data : List Byte) (s : State) : (applyFunc base data s).sch = s.sch := by
  unfold applyFunc; split <;> simp
@[simp] theorem applyFunc_timers (base : Nat) (data : List Byte) (s : State) : (applyFunc base data s).timers = s.timers := by
  unfold applyFunc; split <;> simp
@[simp] theorem applyFunc_loop (base : Nat) (data : List Byte) (s : State) : (applyFunc base data s).loop = s.loop := by
  unfold applyFunc; split <;> simp
@[simp] theorem applyFunc_port (base : Nat) (data : List Byte) (s : State) : (applyFunc base data s).port = s.port := by
  unfold applyFunc; split <;> simp

/-- 40 R125, R126: `dispatch` runs the meaning of a row, or only notifies the scheduler, or does nothing; it always answers a
next state, and leaves the configuration, the decoder, the loop and the inputs alone. -/
theorem dispatch_next (now : Time) (s : State) :
    ∃ t, dispatch now s = .next t ∧ t.cfg = s.cfg ∧ t.newCfg = s.newCfg ∧ t.dec = s.dec ∧ t.loop = s.loop ∧
      t.port = s.port := by
  unfold dispatch
  dsimp only
  split <;> exact ⟨_, rfl, by simp⟩

/-- 40 R125: a frame of a row of the table runs that row's operation. -/
theorem dispatch_known {now : Time} {s : State} {ty : FrameType}
    (h : frameTypeOf (memRead s.dec.buf 1) s.dec.payload = .ok ty) :
    dispatch now s = exec (ty.instr s.dec.frame now) s := by
  have h' : frameTypeOf (memRead s.dec.buf 1) s.dec.frame.data = .ok ty := h
  unfold dispatch
  cases ty <;> simp only [h'] <;> rfl

/-- 40 R116: `complete` always answers a next state, with the decoder back in `Seeking`. -/
theorem complete_next (now : Time) (s : State) :
    ∃ t, complete now s = .next t ∧ t.cfg = s.cfg ∧ t.newCfg = s.newCfg ∧
      t.dec = { s.dec with fsm := .seeking, count := 0 } ∧ t.loop = s.loop ∧ t.port = s.port := by
  unfold complete
  split
  · obtain ⟨t, h, h1, h2, h3, h4, h5⟩ :=
      dispatch_next now (s.seekAgain.emit (.frameAccepted (memRead s.dec.buf 1) s.dec.len))
    exact ⟨t, h, by simpa using h1, by simpa using h2, by simpa using h3, by simpa using h4, by simpa using h5⟩
  · exact ⟨_, rfl, by simp⟩

/-! ### The gate and the loop (43, 44) -/

@[simp] theorem recomputeAdjusted_target (c : Config) (l : Loop) : (recomputeAdjusted c l).target = l.target := rfl
@[simp] theorem recomputeAdjusted_heating (c : Config) (l : Loop) : (recomputeAdjusted c l).heating = l.heating := rfl
@[simp] theorem recomputeAdjusted_integral (c : Config) (l : Loop) : (recomputeAdjusted c l).integral = l.integral := rfl
@[simp] theorem recomputeAdjusted_integralMax (c : Config) (l : Loop) :
    (recomputeAdjusted c l).integralMax = l.integralMax := rfl

/-- 44 R232: the loop is as it was, or has changed direction and recomputed its range. -/
theorem updateDirection_cases (c : Config) (m : Mode) (l : Loop) :
    updateDirection c m l = l ∨ ∃ h, updateDirection c m l = recomputeAdjusted c { l with heating := h } := by
  cases m <;> simp only [updateDirection]
  · split
    · exact .inl rfl
    · exact .inr ⟨_, rfl⟩
  · exact .inl trivial
  · split
    · exact .inr ⟨_, rfl⟩
    · exact .inl rfl
  · exact .inl trivial
  · exact .inl trivial

/-- 43 R215: no request, a deferred one, or an accepted one. -/
theorem toggle_cases (g : GateAnswer) (now : Time) (s : State) :
    (g = .noOp ∧ toggle g now s = s) ∨
    (g ≠ .noOp ∧ throttleOk now s = false ∧ toggle g now s = s.emit (.toggleDeferred g)) ∨
    (g = .turnOn ∧ throttleOk now s = true ∧ toggle g now s = toggleOn now s) ∨
    (g = .turnOff ∧ throttleOk now s = true ∧ toggle g now s = toggleOff now s) := by
  cases g <;> cases h : throttleOk now s <;> simp [toggle, h]

@[simp] theorem toggle_cfg (g : GateAnswer) (now : Time) (s : State) : (toggle g now s).cfg = s.cfg := by
  rcases toggle_cases g now s with ⟨_, h⟩ | ⟨_, _, h⟩ | ⟨_, _, h⟩ | ⟨_, _, h⟩ <;> rw [h] <;> rfl
@[simp] theorem toggle_newCfg (g : GateAnswer) (now : Time) (s : State) : (toggle g now s).newCfg = s.newCfg := by
  rcases toggle_cases g now s with ⟨_, h⟩ | ⟨_, _, h⟩ | ⟨_, _, h⟩ | ⟨_, _, h⟩ <;> rw [h] <;> rfl
@[simp] theorem toggle_dec (g : GateAnswer) (now : Time) (s : State) : (toggle g now s).dec = s.dec := by
  rcases toggle_cases g now s with ⟨_, h⟩ | ⟨_, _, h⟩ | ⟨_, _, h⟩ | ⟨_, _, h⟩ <;> rw [h] <;> rfl
@[simp] theorem toggle_sch (g : GateAnswer) (now : Time) (s : State) : (toggle g now s).sch = s.sch := by
  rcases toggle_cases g now s with ⟨_, h⟩ | ⟨_, _, h⟩ | ⟨_, _, h⟩ | ⟨_, _, h⟩ <;> rw [h] <;> rfl
@[simp] theorem toggle_timers (g : GateAnswer) (now : Time) (s : State) : (toggle g now s).timers = s.timers := by
  rcases toggle_cases g now s with ⟨_, h⟩ | ⟨_, _, h⟩ | ⟨_, _, h⟩ | ⟨_, _, h⟩ <;> rw [h] <;> rfl
@[simp] theorem toggle_port (g : GateAnswer) (now : Time) (s : State) : (toggle g now s).port = s.port := by
  rcases toggle_cases g now s with ⟨_, h⟩ | ⟨_, _, h⟩ | ⟨_, _, h⟩ | ⟨_, _, h⟩ <;> rw [h] <;> rfl
@[simp] theorem toggle_freeCtr (g : GateAnswer) (now : Time) (s : State) : (toggle g now s).freeCtr = s.freeCtr := by
  rcases toggle_cases g now s with ⟨_, h⟩ | ⟨_, _, h⟩ | ⟨_, _, h⟩ | ⟨_, _, h⟩ <;> rw [h] <;> rfl

@[simp] theorem adapt_cfg (now : Time) (s : State) : (adapt now s).cfg = s.cfg := by
  unfold adapt; simp only; split
  · rfl
  · split <;> simp
@[simp] theorem adapt_newCfg (now : Time) (s : State) : (adapt now s).newCfg = s.newCfg := by
  unfold adapt; simp only; split
  · rfl
  · split <;> simp
@[simp] theorem adapt_dec (now : Time) (s : State) : (adapt now s).dec = s.dec := by
  unfold adapt; simp only; split
  · rfl
  · split <;> simp
@[simp] theorem adapt_st (now : Time) (s : State) : (adapt now s).st = s.st := by
  unfold adapt; simp only; split
  · rfl
  · split <;> simp
@[simp] theorem adapt_sch (now : Time) (s : State) : (adapt now s).sch = s.sch := by
  unfold adapt; simp only; split
  · rfl
  · split <;> simp
@[simp] theorem adapt_timers (now : Time) (s : State) : (adapt now s).timers = s.timers := by
  unfold adapt; simp only; split
  · rfl
  · split <;> simp
@[simp] theorem adapt_port (now : Time) (s : State) : (adapt now s).port = s.port := by
  unfold adapt; simp only; split
  · rfl
  · split <;> simp
@[simp] theorem adapt_freeCtr (now : Time) (s : State) : (adapt now s).freeCtr = s.freeCtr := by
  unfold adapt; simp only; split
  · rfl
  · split <;> simp

/-- 44 R250: too early, in the grace period, or a step of the three gains. -/
theorem adapt_loop_cases (now : Time) (s : State) :
    (adapt now s).loop = s.loop ∨ (adapt now s).loop = { s.loop with lastAdaptAt := now } ∨
    (adapt now s).loop =
      adaptGains s.cfg (el now s.loop.lastAdaptAt) { s.loop with lastAdaptAt := now } := by
  unfold adapt; simp only; split
  · exact .inl rfl
  · split
    · exact .inr (.inl rfl)
    · exact .inr (.inr (by simp))

@[simp] theorem pidStep_cfg (cur : Int) (dtMs : Nat) (now : Time) (s : State) : (pidStep cur dtMs now s).cfg = s.cfg := by
  unfold pidStep; simp only; split <;> simp
@[simp] theorem pidStep_newCfg (cur : Int) (dtMs : Nat) (now : Time) (s : State) : (pidStep cur dtMs now s).newCfg = s.newCfg := by
  unfold pidStep; simp only; split <;> simp
@[simp] theorem pidStep_dec (cur : Int) (dtMs : Nat) (now : Time) (s : State) : (pidStep cur dtMs now s).dec = s.dec := by
  unfold pidStep; simp only; split <;> simp
@[simp] theorem pidStep_st (cur : Int) (dtMs : Nat) (now : Time) (s : State) : (pidStep cur dtMs now s).st = s.st := by
  unfold pidStep; simp only; split <;> simp
@[simp] theorem pidStep_sch (cur : Int) (dtMs : Nat) (now : Time) (s : State) : (pidStep cur dtMs now s).sch = s.sch := by
  unfold pidStep; simp only; split <;> simp
@[simp] theorem pidStep_timers (cur : Int) (dtMs : Nat) (now : Time) (s : State) : (pidStep cur dtMs now s).timers = s.timers := by
  unfold pidStep; simp only; split <;> simp
@[simp] theorem pidStep_port (cur : Int) (dtMs : Nat) (now : Time) (s : State) : (pidStep cur dtMs now s).port = s.port := by
  unfold pidStep; simp only; split <;> simp
@[simp] theorem pidStep_freeCtr (cur : Int) (dtMs : Nat) (now : Time) (s : State) : (pidStep cur dtMs now s).freeCtr = s.freeCtr := by
  unfold pidStep; simp only; split <;> simp

@[simp] theorem control_cfg (dtMs : Nat) (now : Time) (s : State) : (control dtMs now s).cfg = s.cfg := by
  unfold control writeBack pidNeutral; simp only; split <;> simp
@[simp] theorem control_newCfg (dtMs : Nat) (now : Time) (s : State) : (control dtMs now s).newCfg = s.newCfg := by
  unfold control writeBack pidNeutral; simp only; split <;> simp
@[simp] theorem control_dec (dtMs : Nat) (now : Time) (s : State) : (control dtMs now s).dec = s.dec := by
  unfold control writeBack pidNeutral; simp only; split <;> simp
@[simp] theorem control_sch (dtMs : Nat) (now : Time) (s : State) : (control dtMs now s).sch = s.sch := by
  unfold control writeBack pidNeutral; simp only; split <;> simp
@[simp] theorem control_timers (dtMs : Nat) (now : Time) (s : State) : (control dtMs now s).timers = s.timers := by
  unfold control writeBack pidNeutral; simp only; split <;> simp
@[simp] theorem control_port (dtMs : Nat) (now : Time) (s : State) : (control dtMs now s).port = s.port := by
  unfold control writeBack pidNeutral; simp only; split <;> simp
@[simp] theorem control_freeCtr (dtMs : Nat) (now : Time) (s : State) : (control dtMs now s).freeCtr = s.freeCtr := by
  unfold control writeBack pidNeutral; simp only; split <;> simp

/-! ### The step -/

/-- 60 R291: an input that is presented under a well-formed configuration is consumed and run. -/
theorem step_present {s : State} {x : Input} {rest : List Input} (hp : s.port = x :: rest) (hc : configWf s.cfg = true) :
    step s = exec (decodeInput x) { s with port := rest } := by
  simp [step, fetch, mayRun, hp, hc]

theorem step_idle {s : State} (hp : s.port = []) : step s = .next s := by simp [step, fetch, hp]

/-- What a step that answers a next state was: idle, or one operation run on the state less its input, and a RESET where the
configuration is not well-formed. -/
theorem step_next_cases {s t : State} (h : step s = .next t) :
    (s.port = [] ∧ t = s) ∨
    ∃ x rest, s.port = x :: rest ∧ (configWf s.cfg = true ∨ decodeInput x = .reset) ∧
      exec (decodeInput x) { s with port := rest } = .next t := by
  unfold step fetch at h
  cases hp : s.port with
  | nil => simp [hp] at h; exact .inl ⟨rfl, h.symm⟩
  | cons x rest =>
    simp only [hp] at h
    split at h
    · rename_i hm
      exact .inr ⟨x, rest, rfl, by simpa [mayRun] using hm, h⟩
    · cases h

/-! ### A run (Host/Core.lean) -/

/-- A run of one more step, for any machine, when its first step answers a next state. -/
theorem run_succ_of_step (M : Host.Core) (k : Nat) (s t : M.State) (h : M.step s = .next t) :
    M.run (k + 1) s = M.run k t := by
  show (match M.step s with | .next s' => M.run k s' | .fault r => .fault r | .refused r => .refused r) = _
  rw [h]

/-- The same for this machine, in terms of `step`. -/
theorem core_run_succ {s t : State} (k : Nat) (h : step s = .next t) :
    Host.Core.run Sys2Proof.core (k + 1) s = Host.Core.run Sys2Proof.core k t :=
  run_succ_of_step Sys2Proof.core k s t h

end Sys2Proof.Machine
end

