-- ==== Sys2Proof/Laws/PerInstr.lean ====
section
/-! SUPPORT. Per instruction: the encoding of each operation has the fixed bits of its row of spec/opcode_table.json. -/

namespace Sys2Proof.Laws.Row

/-- The fixed bits of a row: the selector of an event (30 R95), the command and, for a 0x62 row, the subtype of a frame
(30 R87), or the RESET pin. -/
inductive Fixed where
  | op (x : BitVec 4)
  | frame (cmd : Byte) (sub : Option Byte)
  | pin

/-- The row of each operation. -/
def fixed : Instr → Fixed
  | .fAck _ _ => .frame 0x61#8 none
  | .fSettings _ _ => .frame 0x62#8 (some 0x02#8)
  | .fRoomtemp _ _ => .frame 0x62#8 (some 0x03#8)
  | .fTimers _ _ => .frame 0x62#8 (some 0x05#8)
  | .fStatus _ _ => .frame 0x62#8 (some 0x06#8)
  | .fStandby _ _ => .frame 0x62#8 (some 0x09#8)
  | .fFuncLo _ _ => .frame 0x62#8 (some 0x20#8)
  | .fFuncHi _ _ => .frame 0x62#8 (some 0x22#8)
  | .fConnA _ _ => .frame 0x7A#8 none
  | .fConnB _ _ => .frame 0x7B#8 none
  | .nop _ => .op 0x0#4
  | .rxByte _ _ => .op 0x1#4
  | .startCycle _ => .op 0x2#4
  | .timeout _ _ => .op 0x3#4
  | .tick _ => .op 0x4#4
  | .setTarget _ _ => .op 0x5#4
  | .setPower _ _ => .op 0x6#4
  | .setMode _ _ => .op 0x7#4
  | .setTemperature _ _ => .op 0x8#4
  | .setFan _ _ => .op 0x9#4
  | .setVane _ _ => .op 0xA#4
  | .setWidevane _ _ => .op 0xB#4
  | .linkDown _ => .op 0xC#4
  | .reservedD _ => .op 0xD#4
  | .reservedE _ => .op 0xE#4
  | .reservedF _ => .op 0xF#4
  | .reset => .pin

/-- Bits that have the fixed bits of a row. -/
def has : Fixed → Encoded → Prop
  | .op x, .port (.event w) => eventOp w = x
  | .pin, .port .resetPin => True
  | .frame cmd sub, .link bytes _ =>
    bytes[0]? = some 0xFC#8 ∧ bytes[1]? = some cmd ∧ ∀ b, sub = some b → bytes[5]? = some b
  | _, _ => False

/-- The encoding of a well-formed operation has the fixed bits of its row. -/
def Statement (i : Instr) : Prop := i.wf = true → has (fixed i) (encode i)

theorem frame_bytes (cmd : Byte) (f : Frame) :
    (encodeFrame cmd f)[0]? = some 0xFC#8 ∧ (encodeFrame cmd f)[1]? = some cmd := by
  rw [encodeFrame_eq]; exact ⟨rfl, rfl⟩

theorem frame_subtype (cmd : Byte) {f : Frame} {sub : Byte} (h : (f.fits && f.hasSubtype sub) = true) :
    ∀ b, some sub = some b → (encodeFrame cmd f)[5]? = some b := by
  rintro b ⟨⟩
  simp only [Frame.hasSubtype, Bool.and_eq_true, beq_iff_eq] at h
  obtain ⟨xs, hx⟩ := List.head?_eq_some_iff.mp h.2
  rw [encodeFrame_eq, hx]; rfl

theorem fAck (f : Frame) (now : Time) : Statement (.fAck f now) := fun _ =>
  ⟨(frame_bytes _ f).1, (frame_bytes _ f).2, nofun⟩
theorem fConnA (f : Frame) (now : Time) : Statement (.fConnA f now) := fun _ =>
  ⟨(frame_bytes _ f).1, (frame_bytes _ f).2, nofun⟩
theorem fConnB (f : Frame) (now : Time) : Statement (.fConnB f now) := fun _ =>
  ⟨(frame_bytes _ f).1, (frame_bytes _ f).2, nofun⟩
theorem fSettings (f : Frame) (now : Time) : Statement (.fSettings f now) := fun h =>
  ⟨(frame_bytes _ f).1, (frame_bytes _ f).2, frame_subtype _ h⟩
theorem fRoomtemp (f : Frame) (now : Time) : Statement (.fRoomtemp f now) := fun h =>
  ⟨(frame_bytes _ f).1, (frame_bytes _ f).2, frame_subtype _ h⟩
theorem fTimers (f : Frame) (now : Time) : Statement (.fTimers f now) := fun h =>
  ⟨(frame_bytes _ f).1, (frame_bytes _ f).2, frame_subtype _ h⟩
theorem fStatus (f : Frame) (now : Time) : Statement (.fStatus f now) := fun h =>
  ⟨(frame_bytes _ f).1, (frame_bytes _ f).2, frame_subtype _ h⟩
theorem fStandby (f : Frame) (now : Time) : Statement (.fStandby f now) := fun h =>
  ⟨(frame_bytes _ f).1, (frame_bytes _ f).2, frame_subtype _ h⟩
theorem fFuncLo (f : Frame) (now : Time) : Statement (.fFuncLo f now) := fun h =>
  ⟨(frame_bytes _ f).1, (frame_bytes _ f).2, frame_subtype _ h⟩
theorem fFuncHi (f : Frame) (now : Time) : Statement (.fFuncHi f now) := fun h =>
  ⟨(frame_bytes _ f).1, (frame_bytes _ f).2, frame_subtype _ h⟩
theorem nop (now : Time) : Statement (.nop now) := fun _ => eventOp_packEvent _ _ now
theorem rxByte (b : Byte) (now : Time) : Statement (.rxByte b now) := fun _ => eventOp_packEvent _ _ now
theorem startCycle (now : Time) : Statement (.startCycle now) := fun _ => eventOp_packEvent _ _ now
theorem timeout (code : Byte) (now : Time) : Statement (.timeout code now) := fun _ => eventOp_packEvent _ _ now
theorem tick (now : Time) : Statement (.tick now) := fun _ => eventOp_packEvent _ _ now
theorem setTarget (arg : BitVec 32) (now : Time) : Statement (.setTarget arg now) := fun _ => eventOp_packEvent _ _ now
theorem setPower (sym : Byte) (now : Time) : Statement (.setPower sym now) := fun _ => eventOp_packEvent _ _ now
theorem setMode (sym : Byte) (now : Time) : Statement (.setMode sym now) := fun _ => eventOp_packEvent _ _ now
theorem setTemperature (arg : BitVec 32) (now : Time) : Statement (.setTemperature arg now) := fun _ => eventOp_packEvent _ _ now
theorem setFan (sym : Byte) (now : Time) : Statement (.setFan sym now) := fun _ => eventOp_packEvent _ _ now
theorem setVane (sym : Byte) (now : Time) : Statement (.setVane sym now) := fun _ => eventOp_packEvent _ _ now
theorem setWidevane (sym : Byte) (now : Time) : Statement (.setWidevane sym now) := fun _ => eventOp_packEvent _ _ now
theorem linkDown (now : Time) : Statement (.linkDown now) := fun _ => eventOp_packEvent _ _ now
theorem reservedD (now : Time) : Statement (.reservedD now) := fun _ => eventOp_packEvent _ _ now
theorem reservedE (now : Time) : Statement (.reservedE now) := fun _ => eventOp_packEvent _ _ now
theorem reservedF (now : Time) : Statement (.reservedF now) := fun _ => eventOp_packEvent _ _ now
theorem reset : Statement .reset := fun _ => trivial

end Sys2Proof.Laws.Row
end

