-- ==== Sys2Proof/Laws/Run.lean ====
section
/-! SUPPORT. The laws of runs: operations in a row (`execAll`, `feed`, `tickAt`) and what RESET leaves of the configurations
that are ready. -/

namespace Sys2Proof.Machine

@[simp] theorem execAll_nil (s : State) : execAll [] s = .next s := rfl

theorem execAll_cons {i : Instr} {s t : State} (h : exec i s = .next t) (is : List Instr) :
    execAll (i :: is) s = execAll is t := by
  simp only [execAll, h]

/-- A row of operations that answers goes on with the operations after it. -/
theorem execAll_append {is js : List Instr} {s t : State} (h : execAll is s = .next t) :
    execAll (is ++ js) s = execAll js t := by
  induction is generalizing s with
  | nil => cases h; rfl
  | cons i is ih =>
    simp only [execAll, List.cons_append] at h ⊢
    cases hi : exec i s with
    | next u => rw [hi] at h; exact ih h
    | fault r => rw [hi] at h; cases h
    | refused r => rw [hi] at h; cases h

@[simp] theorem feed_nil (s : State) : feed [] s = .next s := rfl

theorem feed_cons {b : Byte} {now : Time} {s t : State} (h : exec (.rxByte b now) s = .next t)
    (bytes : List (Byte × Time)) : feed ((b, now) :: bytes) s = feed bytes t :=
  execAll_cons h _

theorem feed_append {xs ys : List (Byte × Time)} {s t : State} (h : feed xs s = .next t) :
    feed (xs ++ ys) s = feed ys t := by
  unfold feed
  rw [List.map_append]
  exact execAll_append h

@[simp] theorem tickAt_nil (s : State) : tickAt [] s = .next s := rfl

theorem tickAt_cons {now : Time} {s t : State} (h : exec (.tick now) s = .next t) (times : List Time) :
    tickAt (now :: times) s = tickAt times t :=
  execAll_cons h _

/-- Under well-formed replacements a RESET brings a well-formed configuration into force. -/
theorem resetCfg_wf {s : State} (h : configWf s.cfg = true) (hs : replacementsWf s.newCfg) :
    configWf s.resetCfg = true := by
  unfold State.resetCfg
  unfold replacementsWf at hs
  cases hn : s.newCfg with
  | nil => exact h
  | cons x xs =>
    rw [hn, List.all_cons, Bool.and_eq_true] at hs
    cases x with
    | none => exact h
    | some c => exact hs.1

theorem replacementsWf_tail {cs : List (Option Config)} (h : replacementsWf cs) : replacementsWf cs.tail := by
  cases cs with
  | nil => exact h
  | cons x xs =>
    unfold replacementsWf at h
    rw [List.all_cons, Bool.and_eq_true] at h
    exact h.2

/-- What RESET answers, once: its refusal is for the configuration that would come into force. -/
theorem execReset_cases (s : State) :
    (configWf s.resetCfg = true ∧ exec .reset s = .next (afterReset s)) ∨
    (configWf s.resetCfg = false ∧ exec .reset s = .refused .illFormedConfig) := by
  show (_ ∧ execReset s = _) ∨ (_ ∧ execReset s = _)
  unfold execReset
  cases h : configWf s.resetCfg <;> simp

@[simp] theorem afterReset_cfg (s : State) : (afterReset s).cfg = s.resetCfg := rfl
@[simp] theorem afterReset_newCfg (s : State) : (afterReset s).newCfg = s.newCfg.tail := rfl
@[simp] theorem afterReset_out (s : State) : (afterReset s).out = s.out := rfl
@[simp] theorem afterReset_port (s : State) : (afterReset s).port = s.port := rfl
@[simp] theorem afterReset_freeCtr (s : State) : (afterReset s).freeCtr = s.freeCtr := rfl

/-! ### A Store of the block (00 R12, 20 R60) -/

theorem conform_fx (c : Config) (st : Store) : ∀ x ∈ (st.conform c).fxRegs, fxInRange c x = true := by
  intro x hx
  simp only [Store.fxRegs, Store.conform, List.mem_append, List.mem_cons, List.not_mem_nil, or_false,
    Option.mem_toList, Option.map_eq_some_iff] at hx
  rcases hx with (rfl | rfl | rfl | rfl | rfl | rfl) | ⟨v, _, rfl⟩ <;> exact sat_inRange ..

theorem conform_mem (c : Config) (st : Store) :
    (st.conform c).timerRaw.wf = true ∧ (st.conform c).timerRaw.below timerBytes = true ∧
    (st.conform c).func.wf = true ∧ (st.conform c).func.below funcLen = true := by
  simp only [Store.conform, memConform_wf, memConform_below, and_self]

/-- 42 R188: the scheduler keeps the Fx values of the Store at `NW` bits. -/
theorem processResponse_storeFx {code : Byte} {now : Time} {s : State} (h : storeFx s) :
    storeFx (processResponse code now s) := by
  unfold storeFx
  rw [processResponse_cfg]
  rcases processResponse_st_cases code now s with e | ⟨st, e⟩ <;> rw [e]
  · exact h
  · rw [Store.keepFlags_fxRegs]
    exact conform_fx s.cfg st

/-- 42 R188: the scheduler keeps the byte spaces of the Store. -/
theorem processResponse_storeMem {code : Byte} {now : Time} {s : State} (h : storeMemInv s) :
    storeMemInv (processResponse code now s) := by
  unfold storeMemInv
  rcases processResponse_st_cases code now s with e | ⟨st, e⟩ <;> rw [e]
  · exact h
  · rw [Store.keepFlags_timerRaw, Store.keepFlags_func]
    exact conform_mem s.cfg st

/-- A Store that meets both invariants is left as it is. -/
theorem conform_of_inv {s : State} (hf : storeFx s) (hm : storeMemInv s) : s.st.conform s.cfg = s.st := by
  obtain ⟨m1, m2, m3, m4⟩ := hm
  have hw : s.st.want.temperature.map (sat s.cfg) = s.st.want.temperature := by
    cases hv : s.st.want.temperature with
    | none => rfl
    | some v => simp [sat_of_inRange s.cfg (hf v (by simp [Store.fxRegs, hv]))]
  simp only [storeFx, Store.fxRegs, List.cons_append, List.nil_append, List.mem_cons, forall_eq_or_imp] at hf
  obtain ⟨h1, h2, h3, h4, h5, h6, -⟩ := hf
  simp only [Store.conform, hw, memConform_of_wf m1 m2, memConform_of_wf m3 m4, sat_of_inRange s.cfg h1,
    sat_of_inRange s.cfg h2, sat_of_inRange s.cfg h3, sat_of_inRange s.cfg h4, sat_of_inRange s.cfg h5,
    sat_of_inRange s.cfg h6]

end Sys2Proof.Machine
end

