-- ==== Sys2Proof/Tests/Slice0.lean ====
section
/-! SUPPORT. The model's own tests, each about one operation on a small state; the expected results are those of the spec (the
vectors of 95_test_vectors.md, named by their ids, and words written out from 30_encoding.md). -/

namespace Sys2Proof.Tests

open Sys2Proof.Machine

set_option maxRecDepth 4000

/-! ### Helpers -/

/-- The next state of an outcome, where there is one. -/
def next? (o : Host.Outcome State Fault Refusal) : Option State :=
  match o with
  | .next s => some s
  | .fault _ => none
  | .refused _ => none

/-- One field of the next state. -/
def see {α : Type} (i : Instr) (s : State) (f : State → α) : Option α := (next? (exec i s)).map f

/-- The state after reset under CFG_REF with no requests (95: "REQ = []"). -/
def s0 : State := State.resetOf { configRef with req := [] }

/-- The state after reset under CFG_REF, with its three requests. -/
def s1 : State := State.reset

/-- A frame with the fixed bytes of the spec's examples. -/
def fr (data : List Byte) : Frame := ⟨0x01#8, 0x30#8, data⟩

/-- A decoder that holds all of a frame but its last byte. -/
def holding (s : State) (frame : List Byte) : State := { s with dec := s.dec.holding frame }

/-- `s1` with its first request in flight since `t`, its timer pending. -/
def inFlight (t : Time) : State :=
  { s1 with
    sch := [⟨false, true, 0x00#8, t⟩, reqReset, reqReset]
    timers := [⟨0x02#8, t, 500#32⟩] }

/-- A state that has a room temperature, in mode HEAT, with the target 21.0. -/
def heat (active : Bool) (room : Int) : State :=
  { s0 with
    st := { s0.st with
      cur := { s0.st.cur with mode := .heat }
      status := { s0.st.status with roomTemperature := room }
      haveRoomTemp := true }
    loop := { s0.loop with
      active := active
      target := 1376256
      adjustedMin := 1310720
      adjustedMax := 1507328 } }

/-- The same in mode COOL, the direction not yet turned. -/
def cool (active : Bool) (room : Int) : State :=
  let s := heat active room
  { s with st := { s.st with cur := { s.st.cur with mode := .cool } } }

/-- The same in mode DRY. -/
def dry (active : Bool) (room : Int) : State :=
  let s := heat active room
  { s with st := { s.st with cur := { s.st.cur with mode := .dry } } }

/-- The payload of the settings frame FS1 of 95. -/
def fs1 : List Byte :=
  [0x02#8, 0x00#8, 0x00#8, 0x01#8, 0x01#8, 0x09#8, 0x03#8, 0x07#8, 0x00#8, 0x00#8, 0x83#8, 0xAB#8, 0x00#8, 0x00#8, 0x00#8,
   0x00#8]

/-- The payload of T3's second frame: no signed byte, unknown codes. -/
def fs3 : List Byte :=
  [0x02#8, 0x00#8, 0x00#8, 0x00#8, 0x03#8, 0x0A#8, 0x09#8, 0x06#8, 0x00#8, 0x00#8, 0x00#8, 0x00#8, 0x00#8, 0x00#8, 0x00#8,
   0x00#8]

/-- The payload of the room temperature frame FR1 of 95. -/
def fr1 : List Byte :=
  [0x03#8, 0x00#8, 0x00#8, 0x0B#8, 0x00#8, 0x00#8, 0xA9#8, 0x00#8, 0x00#8, 0x00#8, 0x00#8, 0x00#8, 0x2E#8, 0xE0#8, 0x00#8,
   0x00#8]

/-- The payload of the status frame FT0 of 95. -/
def ft0 : List Byte :=
  [0x06#8, 0x00#8, 0x00#8, 0x2A#8, 0x01#8, 0x01#8, 0xF4#8, 0x00#8, 0x7B#8, 0x00#8, 0x00#8, 0x00#8, 0x00#8, 0x00#8, 0x00#8,
   0x00#8]

/-- The payload of the timers frame of T10. -/
def tm10 : List Byte :=
  [0x05#8, 0x00#8, 0x00#8, 0x01#8, 0x06#8, 0x00#8, 0x03#8, 0x00#8, 0x00#8, 0x00#8, 0x00#8, 0x00#8, 0x00#8, 0x00#8, 0x00#8,
   0x00#8]

/-- The payloads of the function table frames of T14 and T15. -/
def fn14 : List Byte :=
  [0x20#8, 0x01#8, 0x02#8, 0x03#8, 0x04#8, 0x05#8, 0x06#8, 0x07#8, 0x08#8, 0x09#8, 0x0A#8, 0x0B#8, 0x0C#8, 0x0D#8, 0x0E#8,
   0x0F#8]
def fn15 : List Byte :=
  [0x22#8, 0x41#8, 0x42#8, 0x43#8, 0x44#8, 0x45#8, 0x46#8, 0x47#8, 0x48#8, 0x49#8, 0x4A#8, 0x4B#8, 0x4C#8, 0x4D#8, 0x4E#8,
   0x4F#8]

/-! ### Well-formedness: an ill-formed term for each check -/

theorem test_wf_longest : (Instr.fAck (fr (List.replicate 255 0x00#8)) 0#32).wf = true := by decide
theorem test_ill_ack_too_long : (Instr.fAck (fr (List.replicate 256 0x00#8)) 0#32).wf = false := by decide
theorem test_ill_settings_too_long : (Instr.fSettings (fr (0x02#8 :: List.replicate 255 0x00#8)) 0#32).wf = false := by
  decide
theorem test_ill_settings_no_subtype : (Instr.fSettings (fr []) 0#32).wf = false := by decide
theorem test_ill_settings_subtype : (Instr.fSettings (fr [0x03#8]) 0#32).wf = false := by decide
theorem test_ill_roomtemp_subtype : (Instr.fRoomtemp (fr [0x02#8]) 0#32).wf = false := by decide
theorem test_ill_timers_subtype : (Instr.fTimers (fr [0x04#8]) 0#32).wf = false := by decide
theorem test_ill_status_subtype : (Instr.fStatus (fr [0x05#8]) 0#32).wf = false := by decide
theorem test_ill_standby_subtype : (Instr.fStandby (fr [0x00#8]) 0#32).wf = false := by decide
theorem test_ill_funcLo_subtype : (Instr.fFuncLo (fr [0x22#8]) 0#32).wf = false := by decide
theorem test_ill_funcHi_subtype : (Instr.fFuncHi (fr [0x20#8]) 0#32).wf = false := by decide

theorem test_cfgWf_ref : configWf configRef = true := by decide
theorem test_illCfg_buffer_small : sizesWf { configRef with bufCap := 5 } = false := by decide
theorem test_illCfg_buffer_large : sizesWf { configRef with bufCap := 262 } = false := by decide
theorem test_illCfg_scale : sizesWf { configRef with scale := 0 } = false := by decide
theorem test_illCfg_width : sizesWf { configRef with nw := 1 } = false := by decide
theorem test_illCfg_dt_zero : sizesWf { configRef with dtMinMs := 0#32 } = false := by decide
theorem test_illCfg_dt_order : sizesWf { configRef with dtMinMs := 1001#32 } = false := by decide
theorem test_illCfg_sentinel : reqCodesWf { configRef with req := [reqRef 0x00#8] } = false := by decide
theorem test_illCfg_duplicate : reqCodesWf { configRef with req := [reqRef 0x02#8, reqRef 0x02#8] } = false := by decide
theorem test_illCfg_range : rangesWf { configRef with kdMin := 262145 } = false := by decide
theorem test_illCfg_sign : signsWf { configRef with underCap := -1 } = false := by decide
theorem test_illCfg_fx : configWf { configRef with lrKp := 9223372036854775808 } = false := by decide
theorem test_illCfg_type : typesWf { configRef with repeatDisableMin := 0 } = false := by decide

/-! ### Decoding: a word or a frame for every constructor, written out from 30 R81, R84, R87 and R95 -/

theorem test_decode_ack : decodeFrame [0xFC#8, 0x61#8, 0x01#8, 0x30#8, 0x00#8, 0x6E#8] 7#32 = .ok (.fAck (fr []) 7#32) := by
  decide
/-- T5. -/
theorem test_decode_settings : decodeFrame [0xFC#8, 0x62#8, 0x01#8, 0x30#8, 0x03#8, 0x02#8, 0x00#8, 0x00#8, 0x68#8] 7#32 =
    .ok (.fSettings (fr [0x02#8, 0x00#8, 0x00#8]) 7#32) := by decide
/-- T8. -/
theorem test_decode_roomtemp :
    decodeFrame [0xFC#8, 0x62#8, 0x01#8, 0x30#8, 0x04#8, 0x03#8, 0x00#8, 0x00#8, 0x25#8, 0x41#8] 7#32 =
    .ok (.fRoomtemp (fr [0x03#8, 0x00#8, 0x00#8, 0x25#8]) 7#32) := by decide
/-- 0xFC - (0xFC + 0x62 + 0x01 + 0x30 + 0x01 + 0x05) = 0x67 modulo 256. -/
theorem test_decode_timers : decodeFrame [0xFC#8, 0x62#8, 0x01#8, 0x30#8, 0x01#8, 0x05#8, 0x67#8] 7#32 =
    .ok (.fTimers (fr [0x05#8]) 7#32) := by decide
theorem test_decode_status : decodeFrame [0xFC#8, 0x62#8, 0x01#8, 0x30#8, 0x01#8, 0x06#8, 0x66#8] 7#32 =
    .ok (.fStatus (fr [0x06#8]) 7#32) := by decide
/-- DEC9. -/
theorem test_decode_standby : decodeFrame [0xFC#8, 0x62#8, 0x01#8, 0x30#8, 0x01#8, 0x09#8, 0x63#8] 7#32 =
    .ok (.fStandby (fr [0x09#8]) 7#32) := by decide
theorem test_decode_funcLo : decodeFrame [0xFC#8, 0x62#8, 0x01#8, 0x30#8, 0x01#8, 0x20#8, 0x4C#8] 7#32 =
    .ok (.fFuncLo (fr [0x20#8]) 7#32) := by decide
theorem test_decode_funcHi : decodeFrame [0xFC#8, 0x62#8, 0x01#8, 0x30#8, 0x01#8, 0x22#8, 0x4A#8] 7#32 =
    .ok (.fFuncHi (fr [0x22#8]) 7#32) := by decide
/-- DEC9; the fixed bytes of DEC11. -/
theorem test_decode_connA : decodeFrame [0xFC#8, 0x7A#8, 0x01#8, 0x30#8, 0x01#8, 0x00#8, 0x54#8] 7#32 =
    .ok (.fConnA (fr [0x00#8]) 7#32) := by decide
theorem test_decode_connA_fixed : decodeFrame [0xFC#8, 0x7A#8, 0x55#8, 0xAA#8, 0x00#8, 0x87#8] 7#32 =
    .ok (.fConnA ⟨0x55#8, 0xAA#8, []⟩ 7#32) := by decide
/-- T16. -/
theorem test_decode_connB : decodeFrame [0xFC#8, 0x7B#8, 0x01#8, 0x30#8, 0x01#8, 0x00#8, 0x53#8] 7#32 =
    .ok (.fConnB (fr [0x00#8]) 7#32) := by decide
/-- DEC10, T17, T18, T19: rejected by name. -/
theorem test_reject_checksum : decodeFrame [0xFC#8, 0x62#8, 0x01#8, 0x30#8, 0x01#8, 0x09#8, 0x9C#8] 7#32 =
    .error (.badChecksum 0x9C#8) := by decide
theorem test_reject_command : decodeFrame [0xFC#8, 0x63#8, 0x01#8, 0x30#8, 0x02#8, 0x01#8, 0x02#8, 0x67#8] 7#32 =
    .error (.unknown (.command 0x63#8)) := by decide
theorem test_reject_subtype : decodeFrame [0xFC#8, 0x62#8, 0x01#8, 0x30#8, 0x02#8, 0x04#8, 0x00#8, 0x67#8] 7#32 =
    .error (.unknown (.subtype 0x04#8)) := by decide
theorem test_reject_noSubtype : decodeFrame [0xFC#8, 0x62#8, 0x01#8, 0x30#8, 0x00#8, 0x6D#8] 7#32 =
    .error (.unknown .noSubtype) := by decide
theorem test_reject_start : decodeFrame [0xFB#8, 0x62#8, 0x01#8, 0x30#8, 0x00#8, 0x6D#8] 7#32 = .error (.badStart 0xFB#8) := by
  decide
theorem test_reject_length : decodeFrame [0xFC#8, 0x62#8, 0x01#8, 0x30#8, 0x01#8, 0x6D#8] 7#32 = .error (.badLength 0x01#8) := by
  decide
theorem test_reject_header : decodeFrame [0xFC#8, 0x62#8, 0x01#8, 0x30#8] 7#32 = .error .truncatedHeader := by decide

/-- `now` 9 in bits 67..36, `arg` in bits 35..4, `op` in bits 3..0. -/
theorem test_decode_nop : decodeEvent 0x00000009000000000#68 = .nop 9#32 := by decide
theorem test_decode_rxByte : decodeEvent 0x00000009000000FC1#68 = .rxByte 0xFC#8 9#32 := by decide
theorem test_decode_startCycle : decodeEvent 0x00000009000000002#68 = .startCycle 9#32 := by decide
theorem test_decode_timeout : decodeEvent 0x00000009000000063#68 = .timeout 0x06#8 9#32 := by decide
theorem test_decode_tick : decodeEvent 0x00000009000000004#68 = .tick 9#32 := by decide
theorem test_decode_setTarget : decodeEvent 0x00000009FFFF00005#68 = .setTarget 0xFFFF0000#32 9#32 := by decide
theorem test_decode_setPower : decodeEvent 0x00000009000000016#68 = .setPower 0x01#8 9#32 := by decide
/-- W10, W11: only the low byte is the operand. -/
theorem test_decode_setMode : decodeEvent 0x00000009FFFFFFFF7#68 = .setMode 0xFF#8 9#32 := by decide
theorem test_decode_setMode_low : decodeEvent 0x00000009000001027#68 = .setMode 0x02#8 9#32 := by decide
theorem test_decode_setTemperature : decodeEvent 0x00000009001600008#68 = .setTemperature 0x00160000#32 9#32 := by decide
theorem test_decode_setFan : decodeEvent 0x00000009000000059#68 = .setFan 0x05#8 9#32 := by decide
theorem test_decode_setVane : decodeEvent 0x0000000900000006A#68 = .setVane 0x06#8 9#32 := by decide
theorem test_decode_setWidevane : decodeEvent 0x00000009000000FFB#68 = .setWidevane 0xFF#8 9#32 := by decide
theorem test_decode_linkDown : decodeEvent 0x0000000900000000C#68 = .linkDown 9#32 := by decide
theorem test_decode_reservedD : decodeEvent 0x0000000900000000D#68 = .reservedD 9#32 := by decide
theorem test_decode_reservedE : decodeEvent 0x0000000900000000E#68 = .reservedE 9#32 := by decide
theorem test_decode_reservedF : decodeEvent 0x0000000900000000F#68 = .reservedF 9#32 := by decide
theorem test_decode_reset : decodeInput .resetPin = .reset := by decide

/-- Table words: 0xFC 62 01 30 01 20 is a function table frame, 0x6 the selector of SET_POWER. -/
theorem test_table_frame : decodeTableWord 48 0xFC6201300120 = some (.fFuncLo (fr [0x20#8]) 0#32) := by decide
theorem test_table_event : decodeTableWord 8 0x16 = some (.setPower 0x01#8 0#32) := by decide
theorem test_table_pin : decodeTableWord 1 1 = some .reset := by decide

/-! ### One operation each -/

/-- T20. -/
theorem test_ack :
    (let s := { s0 with st := { s0.st with cur := { s0.st.cur with power := .on }, want := { wantedNone with power := some .off } } }
     see (.fAck (fr []) 0#32) s fun t => (t.st.cur.power, t.st.want, t.out)) =
    some (.off, wantedNone, [.settingsChanged]) := by decide
/-- T21. -/
theorem test_ack_nothing_wanted : see (.fAck (fr [0x00#8]) 0#32) s0 (·.out) = some [] := by decide
/-- T1. -/
theorem test_settings : see (.fSettings (fr fs1) 0#32) s0 (·.st.cur) = some ⟨.on, .heat, 1409024, 3, 6, 2⟩ := by decide
/-- T3. -/
theorem test_settings_tables :
    see (.fSettings (fr fs3) 0#32) { s0 with st := { s0.st with firstRun := false } } (fun t => (t.st.cur, t.st.want)) =
    some (⟨.off, .cool, 1376256, 0, 0, 0⟩, wantedNone) := by decide
/-- T7. -/
theorem test_roomtemp :
    see (.fRoomtemp (fr fr1) 0#32) s0 (fun t => (t.st.status.roomTemperature, t.st.extTempMode, t.st.status.runtimeHours)) =
    some (1343488, true, 13107200) := by decide
/-- T8: table entry 0, the latch stays. -/
theorem test_roomtemp_table :
    see (.fRoomtemp (fr [0x03#8, 0x00#8, 0x00#8, 0x25#8]) 0#32) { s0 with st := { s0.st with extTempMode := true } }
      (fun t => (t.st.status.roomTemperature, t.st.extTempMode, t.out)) = some (655360, true, [.statusChanged]) := by decide
/-- T10. -/
theorem test_timers : see (.fTimers (fr tm10) 0#32) s0 (fun t => memReadAll t.st.timerRaw 0 5) =
    some [0x01#8, 0x06#8, 0x00#8, 0x03#8, 0x00#8] := by decide
/-- X2: 42.0, operating, 500.0, 12.3. -/
theorem test_status : see (.fStatus (fr ft0) 0#32) s0 (·.st.status) = some ⟨true, 2752512, 32768000, 806092, 0, 0⟩ := by decide
/-- T13, S7. -/
theorem test_standby : see (.fStandby (fr [0x09#8]) 5#32) (inFlight 0#32) (fun t => (t.st, t.out)) = some (storeReset, []) := by
  decide
/-- T14, T15. -/
theorem test_funcLo : see (.fFuncLo (fr fn14) 0#32) s0 (fun t => (memRead t.st.func 0, memRead t.st.func 14, memRead t.st.func 15)) =
    some (0x01#8, 0x0F#8, 0x00#8) := by decide
theorem test_funcHi : see (.fFuncHi (fr fn15) 0#32) s0 (fun t => (memRead t.st.func 14, memRead t.st.func 15, memRead t.st.func 29)) =
    some (0x00#8, 0x41#8, 0x4F#8) := by decide
/-- DEC6, T16. -/
theorem test_connA : see (.fConnA (fr []) 0#32) s0 (·.st.connected) = some true := by decide
theorem test_connB : see (.fConnB (fr [0x00#8]) 0#32) s0 (·.st.connected) = some true := by decide
/-- W17. -/
theorem test_nop : see (.nop 0#32) s1 id = some s1 := by decide
theorem test_reserved : see (.reservedD 0#32) s1 id = some s1 ∧ see (.reservedE 0#32) s1 id = some s1 ∧
    see (.reservedF 0#32) s1 id = some s1 := by decide
/-- DEC6: the last byte of the shortest frame. -/
theorem test_rxByte_last :
    see (.rxByte 0x55#8 0#32) (holding s0 [0xFC#8, 0x7A#8, 0x01#8, 0x30#8, 0x00#8, 0x55#8])
      (fun t => (t.out, t.st.connected, t.dec.fsm, t.dec.count)) =
    some ([.frameAccepted 0x7A#8 0x00#8], true, .seeking, 0) := by decide
/-- X5: 17 + 6 > 22. -/
theorem test_rxByte_oversize :
    see (.rxByte 0x11#8 0#32) { s0 with dec := ⟨.readingHeader, 4, 0x00#8, [(0, 0xFC#8)]⟩ } (fun t => (t.out, t.dec.fsm)) =
    some ([.err 2 0x11], .seeking) := by decide
/-- S1. -/
theorem test_startCycle : see (.startCycle 1000#32) s1 (fun t => (t.out, t.timers)) =
    some ([.txRequest 0x02#8, .armTimer 0x02#8 500#32], [⟨0x02#8, 1000#32, 500#32⟩]) := by decide
/-- S4. -/
theorem test_startCycle_in_flight : see (.startCycle 650#32) (inFlight 500#32) id = some (inFlight 500#32) := by decide
/-- X6, second row. -/
theorem test_timeout : see (.timeout 0x02#8 500#32) (inFlight 0#32) (fun t => (t.out, t.sch.map (·.failures))) =
    some ([.err 4 0x02, .txRequest 0x03#8, .armTimer 0x03#8 500#32], [0x01#8, 0x00#8, 0x00#8]) := by decide
/-- S1, the stale timer. -/
theorem test_timeout_stale :
    see (.timeout 0x02#8 1500#32) { s1 with timers := [⟨0x02#8, 0#32, 500#32⟩] } (fun t => (t.out, t.timers)) = some ([], []) := by
  decide
/-- X9, first row. -/
theorem test_tick : see (.tick 60000#32) (heat false 1310720)
    (fun t => (t.out, t.loop.integral, t.loop.lastOutput, t.loop.corrected)) = some ([.turnOn], 65536, 139264, 1507328) := by
  decide
/-- X8, first row. -/
theorem test_tick_off : see (.tick 100000#32) (heat true 1441792) (fun t => (t.out, t.st.want.power, t.st.want.temperature)) =
    some ([.turnOff], some .off, some 1376256) := by decide
/-- K2: 21.0 from the midpoint 23.5. -/
theorem test_setTarget : see (.setTarget 1376256#32 0#32) s0 (fun t => (t.loop.target, t.loop.adjustedMin, t.loop.adjustedMax, t.out)) =
    some (1376256, 1310720, 1507328, [.saveTarget 1376256]) := by decide
theorem test_setTarget_same : see (.setTarget 1540096#32 0#32) s0 id = some s0 := by decide
/-- W9. -/
theorem test_setPower : see (.setPower 0x02#8 0#32) s0 (fun t => (t.st.want.power, t.out)) =
    some (some .off, [.err 5 2, .setterResult 0 0]) := by decide
/-- W10. -/
theorem test_setMode : see (.setMode 0xFF#8 0#32) s0 (fun t => (t.st.want.mode, t.out)) =
    some (some .heat, [.err 5 511, .setterResult 1 0]) := by decide
/-- W1. -/
theorem test_setTemperature : see (.setTemperature 1441792#32 0#32) s0 (fun t => (t.st.want.temperature, t.out)) =
    some (some 1441792, [.setterResult 2 1441792]) := by decide
/-- 30 R95: sign-extended. -/
theorem test_setTemperature_negative : see (.setTemperature 0xFFFF0000#32 0#32) s0 (·.st.want.temperature) =
    some (some (-65536)) := by decide
/-- W12. -/
theorem test_setFan : see (.setFan 0x06#8 0#32) s0 (fun t => (t.st.want.fan, t.out)) =
    some (some 0, [.err 5 774, .setterResult 3 0]) := by decide
/-- W3. -/
theorem test_setVane : see (.setVane 0x09#8 0#32) s0 (fun t => (t.st.want.vane, t.out)) =
    some (some 0, [.err 5 1033, .setterResult 4 0]) := by decide
/-- W4. -/
theorem test_setWidevane : see (.setWidevane 0x06#8 0#32) s0 (fun t => (t.st.want.wideVane, t.out)) =
    some (some 6, [.setterResult 5 6]) := by decide
/-- W15. -/
theorem test_linkDown : see (.linkDown 0#32) { s0 with st := { s0.st with connected := true } } (fun t => (t.st.connected, t.out)) =
    some (false, [.err 7 0]) := by decide
/-- 10 R40. -/
theorem test_reset : see .reset (heat true 1310720) (fun t => (t.loop.active, t.st.haveRoomTemp, t.loop.target)) =
    some (false, false, 1540096) := by decide
theorem test_reset_ill_formed : see .reset { s0 with newCfg := [some { configRef with scale := 0 }] } id = none := by decide

/-- The placed table word runs at the next step. -/
theorem test_step_frame : (next? (step (s0.withFetchWord 48 0xFC7A01300000))).map (·.st.connected) = some true := by decide
/-- A table word whose length is too large for the buffer: the next step takes its length byte, which is oversize (40 R114). -/
theorem test_step_long_frame : (next? (step (s0.withFetchWord 48 0xFC6201301102))).map (·.out) = some [.err 2 0x11] := by decide
theorem test_step_event : (next? (step (s0.withFetchWord 8 0x16))).map (·.out) = some [.setterResult 0 1] := by decide

/-! ### Witnesses: a state and operands that meet the hypotheses of each statement of Certificates/Slice0/Obligations.lean -/

/-- There is a next state. -/
def answers (i : Instr) (s : State) : Prop := ∃ t, exec i s = .next t

theorem answers_of {i : Instr} {s : State} (h : (next? (exec i s)).isSome = true) : answers i s := by
  unfold answers
  cases h' : exec i s with
  | next t => exact ⟨t, rfl⟩
  | _ => rw [h'] at h; cases h

/-- The decoder in the body of a frame, `count` bytes received, `len` announced. -/
def inBody (count : Nat) (len : Byte) : State := { s0 with dec := ⟨.readingBody, count, len, [(0, 0xFC#8)]⟩ }

/-- The decoder in the header, `count` bytes received. -/
def inHeader (count : Nat) : State := { s0 with dec := ⟨.readingHeader, count, 0x00#8, [(0, 0xFC#8)]⟩ }

/-- The frame of DEC6 less its last byte. -/
def beforeLast : State := holding s0 [0xFC#8, 0x7A#8, 0x01#8, 0x30#8, 0x00#8, 0x55#8]

theorem witness_DecodeOfEncodeIsTheOperation :
    (Instr.fSettings (fr (0x02#8 :: List.replicate 254 0xFF#8)) 0xFFFFFFFF#32).wf = true ∧
    (Instr.fAck (fr []) 0#32).wf = true ∧ (Instr.tick 0#32).wf = true := by decide

/-- The first and the last byte that may be changed, of the shortest frame. -/
theorem witness_SingleByteMutationIsRejected :
    (fr []).data.length ≤ 255 ∧ (1 ≠ 0 ∧ 1 ≠ 4 ∧ 1 < (fr []).data.length + 6 ∧ (encodeFrame 0x61#8 (fr []))[1]? ≠ some 0x60#8) ∧
    (5 ≠ 0 ∧ 5 ≠ 4 ∧ 5 < (fr []).data.length + 6 ∧ (encodeFrame 0x61#8 (fr []))[5]? ≠ some 0x6F#8) := by decide

theorem witness_StepRunsThePresentedOperation :
    s0.port = [] ∧
    ((s0.present (.event 0x4#68)).port = .event 0x4#68 :: [] ∧ configWf (s0.present (.event 0x4#68)).cfg = true) ∧
    (s0.present .resetPin).port = .resetPin :: [] ∧
    (let s := State.resetOf { configRef with scale := 0 }
     (s.present (.event 0x4#68)).port = .event 0x4#68 :: [] ∧ configWf (s.present (.event 0x4#68)).cfg = false) := by decide

theorem witness_LastByteRunsTheFrame :
    beforeLast.dec.fsm = .readingBody ∧ beforeLast.dec.count = beforeLast.dec.len.toNat + 5 ∧
    beforeLast.dec.count < beforeLast.cfg.bufCap ∧
    decodeFrame (memReadAll (memWrite beforeLast.dec.buf beforeLast.dec.count 0x55#8) 0 (beforeLast.dec.len.toNat + 6)) 3#32 =
      .ok (.fConnA (fr []) 3#32) := by decide

/-- One state for each row of 40 R127, at the boundary of its range: the longest body of 22 bytes is `len` 16. -/
theorem witness_DecoderTransitions :
    (s0.dec.fsm = .seeking ∧ (0xFB#8 : Byte) ≠ 0xFC#8) ∧
    (6 ≤ (inHeader 3).cfg.bufCap ∧ (inHeader 3).dec.fsm = .readingHeader ∧ (inHeader 3).dec.count < 4) ∧
    ((inHeader 4).dec.count = 4 ∧ (0x10#8 : Byte).toNat + 6 ≤ (inHeader 4).cfg.bufCap) ∧
    ((inHeader 4).dec.count = 4 ∧ (inHeader 4).cfg.bufCap < (0x11#8 : Byte).toNat + 6) ∧
    ((inBody 20 0x10#8).dec.fsm = .readingBody ∧
      (inBody 20 0x10#8).dec.count + 1 < (inBody 20 0x10#8).dec.len.toNat + 6 ∧
      (inBody 20 0x10#8).dec.count + 1 < (inBody 20 0x10#8).cfg.bufCap) ∧
    (beforeLast.dec.fsm = .readingBody ∧ beforeLast.dec.count + 1 = beforeLast.dec.len.toNat + 6 ∧
      beforeLast.dec.count < beforeLast.cfg.bufCap ∧ beforeLast.dec.buf.wf = true ∧
      verifyChecksum { beforeLast.dec with buf := memWrite beforeLast.dec.buf 5 0x55#8, count := 6 } = true ∧
      verifyChecksum { beforeLast.dec with buf := memWrite beforeLast.dec.buf 5 0x54#8, count := 6 } = false) ∧
    ((inBody 21 0x11#8).dec.fsm = .readingBody ∧
      (inBody 21 0x11#8).dec.count + 1 < (inBody 21 0x11#8).dec.len.toNat + 6 ∧
      (inBody 21 0x11#8).dec.count < (inBody 21 0x11#8).cfg.bufCap ∧
      (inBody 21 0x11#8).cfg.bufCap ≤ (inBody 21 0x11#8).dec.count + 1) := by decide

theorem witness_UnknownFramesAreIgnored :
    (memRead (holding s0 [0xFC#8, 0x63#8, 0x01#8, 0x30#8, 0x00#8, 0x00#8]).dec.buf 1 = 0x63#8 ∧
      (0x63#8 : Byte) ∉ [0x61#8, 0x62#8, 0x7A#8, 0x7B#8]) ∧
    (let s := holding s0 [0xFC#8, 0x62#8, 0x01#8, 0x30#8, 0x00#8, 0x6D#8]
     memRead s.dec.buf 1 = 0x62#8 ∧ s.dec.len = 0x00#8) ∧
    (let s := holding s0 [0xFC#8, 0x62#8, 0x01#8, 0x30#8, 0x01#8, 0x04#8, 0x68#8]
     memRead s.dec.buf 1 = 0x62#8 ∧ s.dec.len ≠ 0x00#8 ∧ memRead s.dec.buf 5 = 0x04#8 ∧
     (0x04#8 : Byte) ∉ [0x02#8, 0x03#8, 0x05#8, 0x06#8, 0x09#8, 0x20#8, 0x22#8]) ∧
    defaultResponses s1.cfg := by decide

theorem witness_OverflowGuardNeverFires : decoderInv (inBody 20 0x10#8) ∧ answers (.rxByte 0x00#8 0#32) (inBody 20 0x10#8) :=
  ⟨by decide, answers_of (by decide)⟩

/-- X3: the garbage `00 12 FB FD 62`, then the frame of DEC6. -/
theorem witness_GarbageThenOneFrame :
    s0.dec.fsm = .seeking ∧ s0.dec.buf.wf = true ∧
    (∀ p ∈ [((0x00#8 : Byte), (1#32 : Time)), (0x12#8, 2#32), (0xFB#8, 2#32), (0xFD#8, 3#32), (0x62#8, 4#32)], p.1 ≠ 0xFC#8) ∧
    (fr []).data.length ≤ 255 ∧ (fr []).data.length + 6 ≤ s0.cfg.bufCap ∧
    [((0xFC#8 : Byte), (5#32 : Time)), (0x7A#8, 5#32), (0x01#8, 6#32), (0x30#8, 6#32), (0x00#8, 7#32)].map Prod.fst ++
      [0x55#8] = encodeFrame 0x7A#8 (fr []) :=
  ⟨rfl, by decide, by simp, by decide, by decide, by decide⟩

/-- A payload one byte short, and one of the least length, for each type. -/
theorem witness_frame_lengths :
    (fs1.take 10).length < s0.cfg.pmap.setMinLen ∧ s0.cfg.pmap.setMinLen ≤ (fs1.take 11).length ∧
    (fr1.take 3).length < s0.cfg.pmap.rtMinLen ∧ s0.cfg.pmap.rtMinLen ≤ (fr1.take 4).length ∧
    (tm10.take 7).length < s0.cfg.pmap.tmMinLen ∧ s0.cfg.pmap.tmMinLen ≤ (tm10.take 8).length ∧
    (ft0.take 4).length < s0.cfg.pmap.staMinLen ∧ s0.cfg.pmap.staMinLen ≤ (ft0.take 5).length ∧
    (fn14.take 15).length < s0.cfg.pmap.fnMinLen ∧ s0.cfg.pmap.fnMinLen ≤ fn14.length := by decide

/-- The settings decode under CFG_REF: nothing is assumed of the payload but its length. -/
theorem witness_SettingsFrameOverwritesCurrent :
    (⟨.on, .heat, 1409024, 3, 6, 2⟩ : Settings) = settingsOf s0.cfg s0.freeCtr fs1 ∧
    s0.cfg.pmap.setMinLen ≤ (fr fs1).data.length := by decide

/-- Payloads with the signed byte, without it, and with a table code in and outside the table. -/
theorem witness_SettingsPayloadDecodes :
    (fs1[configRef.pmap.setPower]? = some 0x01#8 ∧ fs1[configRef.pmap.setMode]? = some 0x01#8 ∧
      fs1[configRef.pmap.setTemp]? = some 0x09#8 ∧ fs1[configRef.pmap.setFan]? = some 0x03#8 ∧
      fs1[configRef.pmap.setVane]? = some 0x07#8 ∧ fs1[configRef.pmap.setWvane]? = some 0x83#8 ∧
      fs1[configRef.pmap.setTempExt]? = some 0xAB#8 ∧ (0xAB#8 : Byte) ≠ 0x00#8) ∧
    (fs3[configRef.pmap.setTempExt]? = some 0x00#8 ∧ configRef.pmap.tempTable[(0x0A#8 : Byte).toNat]? = some 21) ∧
    ((fs3.take 11)[configRef.pmap.setTempExt]? = none ∧ configRef.pmap.tempTable[(0x10#8 : Byte).toNat]? = none ∧
      configRef.pmap.tempTable[0]? = some 31) := by decide

/-- The first and the last index, and a code in no entry. -/
theorem witness_EnumDecodeIsTheLeastIndex :
    enumDefault.fan.length = 6 ∧ enumDefault.fan[0]? = some 0x00#8 ∧ enumDefault.fan[5]? = some 0x06#8 ∧
    (∀ j, j < 5 → enumDefault.fan[j]? ≠ some 0x06#8) ∧ (0x04#8 : Byte) ∉ enumDefault.fan := by decide

theorem witness_OperandValuesDecode :
    fr1[3]? = some 0x0B#8 ∧ roomTempTableDefault[(0x1F#8 : Byte).toNat]? = some 41 ∧
    (roomTempTableDefault[(0x20#8 : Byte).toNat]? = none ∧ roomTempTableDefault[0]? = some 10) ∧ 0 < 60 ∧
    32 ≤ configRef.nw := by decide

/-- The Fx operands at the ends of a range of 32 bits and of one of 16; the first of each side that has no place in 16 bits. -/
theorem witness_fx_operands :
    (let c := { configRef with nw := 32 }
     configWf c = true ∧ 32 ≤ c.nw ∧ -2 ^ (c.nw - 1) ≤ (0x80000000#32).toInt ∧ (0x7FFFFFFF#32).toInt < 2 ^ (c.nw - 1) ∧
     sat c ((0x7FFFFFFF#32).toInt + 1) = 0x7FFFFFFF) ∧
    (let c := { configRef with nw := 16 }
     ¬ 32 ≤ c.nw ∧ -2 ^ (c.nw - 1) ≤ (0xFFFF8000#32).toInt ∧ (0x7FFF#32).toInt < 2 ^ (c.nw - 1) ∧
     fxOperand c 0xFFFF8000#32 = -0x8000 ∧ fxInRange c (0x8000#32).toInt = false ∧
     fxInRange c (0xFFFF7FFF#32).toInt = false) := by decide

/-- The tolerance, 655 raw units: two statuses that far apart in one field are equal, one unit further they are not. -/
theorem test_equalities_at_the_tolerance :
    statusEqual configRef ⟨true, 1000, 0, 0, 0, 0⟩ ⟨true, 345, 0, 0, 0, 0⟩ = true ∧
    statusEqual configRef ⟨true, 1000, 0, 0, 0, 0⟩ ⟨true, 344, 0, 0, 0, 0⟩ = false ∧
    settingsEqual configRef ⟨.on, .cool, 0, 1, 2, 3⟩ ⟨.on, .cool, -655, 1, 2, 3⟩ = true ∧
    settingsEqual configRef ⟨.on, .cool, 0, 1, 2, 3⟩ ⟨.on, .cool, -656, 1, 2, 3⟩ = false := by decide

/-- FR1 takes the signed path with its runtime; FR1 cut to 4 bytes takes the table and keeps the runtime. -/
theorem witness_RoomTemperatureFrame :
    (fr1[configRef.pmap.rtExt]? = some 0xA9#8 ∧ (0xA9#8 : Byte) ≠ 0x00#8 ∧
      1343488 = sat configRef (Int.fdiv (((0xA9#8 : Byte).toNat - 128) * (configRef.scale : Int)) 2) ∧
      fr1[configRef.pmap.rtRuntime]? = some 0x00#8 ∧ fr1[configRef.pmap.rtRuntime + 1]? = some 0x2E#8 ∧
      fr1[configRef.pmap.rtRuntime + 2]? = some 0xE0#8 ∧ configRef.pmap.rtMinLen ≤ fr1.length) ∧
    ((fr1.take 4)[configRef.pmap.rtExt]? = none ∧ (fr1.take 4).length ≤ configRef.pmap.rtRuntime + 2 ∧
      configRef.pmap.rtMinLen ≤ (fr1.take 4).length) := by decide

/-- FT0 carries both two-byte fields; FT0 cut to 6 bytes carries neither. -/
theorem witness_StatusFrame :
    (ft0[configRef.pmap.staPower]? = some 0x01#8 ∧ ft0[configRef.pmap.staPower + 1]? = some 0xF4#8 ∧
      ft0[configRef.pmap.staKwh]? = some 0x00#8 ∧ ft0[configRef.pmap.staKwh + 1]? = some 0x7B#8) ∧
    ((ft0.take 6).length ≤ configRef.pmap.staPower + 1 ∧ (ft0.take 6).length ≤ configRef.pmap.staKwh + 1 ∧
      configRef.pmap.staMinLen ≤ (ft0.take 6).length) := by decide

theorem witness_TimersFrameStoresFiveBytes : s0.st.timerRaw.wf = true ∧ s0.cfg.pmap.tmMinLen ≤ (fr tm10).data.length := by decide
theorem witness_FunctionTableFramesStoreAHalf : s0.st.func.wf = true ∧ s0.cfg.pmap.fnMinLen ≤ (fr fn14).data.length := by decide

/-- A code of no request; the first request in flight; the last one not. -/
theorem witness_ResponseIsMarkedAndMovesOn :
    (∀ q ∈ s1.cfg.req, q.code ≠ 0x09#8) ∧ reqCodesWf s1.cfg = true ∧
    ((inFlight 0#32).cfg.req[0]? = some (reqRef 0x02#8) ∧ (inFlight 0#32).sch[0]? = some ⟨false, true, 0x00#8, 0#32⟩) ∧
    ((inFlight 0#32).cfg.req[2]? = some (reqRef 0x06#8) ∧ (inFlight 0#32).sch[2]? = some reqReset ∧
      reqReset.awaiting = false) := by decide

/-- From the head, from after the first request to the last, and past the end; a code of no request. -/
theorem witness_ScanSendsTheFirstSendable :
    (∀ q ∈ s1.cfg.req, q.code ≠ 0x09#8) ∧ reqCodesWf s1.cfg = true ∧ s1.cfg.req[2]? = some (reqRef 0x06#8) ∧
    (s1.sch[1]? = some reqReset ∧ startIndex s1.cfg 0x02#8 ≤ 1 ∧ sendable s1 0#32 1 = true ∧
      (∀ j, startIndex s1.cfg 0x02#8 ≤ j → j < 1 → sendable s1 0#32 j = false)) ∧
    (let s := { s1 with sch := [⟨true, false, 0x02#8, 0#32⟩, ⟨true, false, 0x02#8, 0#32⟩, reqReset] }
     startIndex s.cfg 0x00#8 ≤ 2 ∧ sendable s 0#32 2 = true ∧
     ∀ j, startIndex s.cfg 0x00#8 ≤ j → j < 2 → sendable s 0#32 j = false) ∧
    (∀ j, startIndex s1.cfg 0x06#8 ≤ j → j < s1.cfg.req.length → sendable s1 0#32 j = false) := by decide

theorem witness_StartCycleScansUnlessInFlight :
    (∃ r ∈ (inFlight 0#32).sch, r.awaiting = true) ∧ ∀ r ∈ s1.sch, r.awaiting = false := by decide

/-- The earliest of two timers of one code; a code of no request; a request in flight with the most failures; a stale timer. -/
theorem witness_TimeoutOfAPendingTimer :
    (let s := { inFlight 0#32 with timers := [⟨0x03#8, 0#32, 500#32⟩, ⟨0x02#8, 0#32, 500#32⟩, ⟨0x02#8, 9#32, 500#32⟩] }
     s.timers = [⟨0x03#8, 0#32, 500#32⟩] ++ ⟨0x02#8, 0#32, 500#32⟩ :: [⟨0x02#8, 9#32, 500#32⟩] ∧
     (∀ x ∈ [(⟨0x03#8, 0#32, 500#32⟩ : Timer)], x.code ≠ 0x02#8) ∧ reqCodesWf s.cfg = true ∧
     s.cfg.req[0]? = some (reqRef 0x02#8) ∧ s.sch[0]? = some ⟨false, true, 0x00#8, 0#32⟩) ∧
    (∀ q ∈ s0.cfg.req, q.code ≠ 0x02#8) ∧ (0xFE#8 : Byte).toNat < 255 ∧ s1.sch[0]? = some reqReset := by decide

/-- A code of no request; the first request not in flight, and in flight. -/
theorem witness_TimeoutWithNoPendingTimer :
    (∀ x ∈ s1.timers, x.code ≠ 0x02#8) ∧ (∀ q ∈ s1.cfg.req, q.code ≠ 0x09#8) ∧ reqCodesWf s1.cfg = true ∧
    s1.cfg.req[0]? = some (reqRef 0x02#8) ∧ s1.sch[0]? = some reqReset ∧ reqReset.awaiting = false ∧
    (let s := { inFlight 0#32 with timers := [] }
     (∀ x ∈ s.timers, x.code ≠ 0x02#8) ∧ s.cfg.req[0]? = some (reqRef 0x02#8) ∧
     s.sch[0]? = some ⟨false, true, 0x00#8, 0#32⟩ ∧ (0x00#8 : Byte).toNat < 255) := by decide

theorem witness_TickBeforeRoomTemperature : s0.st.haveRoomTemp = false := by decide

/-- A TICK in each mode, in both states of the loop, with and without an accepted toggle. -/
theorem witness_ticks :
    (heat false 1310720).st.haveRoomTemp = true ∧ answers (.tick 60000#32) (heat false 1310720) ∧
    (heat false 1310720).st.modeNow = .heat ∧
    (cool true 1310720).st.haveRoomTemp = true ∧ answers (.tick 60000#32) (cool true 1310720) ∧
    (cool true 1310720).st.modeNow = .cool ∧
    (dry true 1310720).st.haveRoomTemp = true ∧ answers (.tick 60000#32) (dry true 1310720) ∧
    (dry true 1310720).st.modeNow ≠ .heat ∧ (dry true 1310720).st.modeNow ≠ .cool :=
  ⟨rfl, ⟨_, rfl⟩, rfl, rfl, ⟨_, rfl⟩, rfl, rfl, ⟨_, rfl⟩, by decide, by decide⟩

/-- The boundary of each comparison: a raw unit above the threshold, and the threshold. -/
theorem witness_GateAnswers :
    (fxSub configRef 0 (fxSub configRef 1343487 1376256) > configRef.hystOnThr) ∧
    (fxSub configRef 0 (fxSub configRef 1343488 1376256) ≤ configRef.hystOnThr) ∧
    (fxSub configRef 1376256 1343487 > configRef.hystOffThr) ∧
    (fxSub configRef 1376256 1343488 ≤ configRef.hystOffThr) := by decide

/-- TG2: 59999 and 60000 milliseconds. -/
theorem witness_ToggleActsOnTheAnswer :
    (59999#32 - s0.st.lastToggleAt).toNat < s0.cfg.toggleMinMs.toNat ∧
    s0.cfg.toggleMinMs.toNat ≤ (60000#32 - s0.st.lastToggleAt).toNat := by decide

/-- No request, a deferred one, and both accepted ones. -/
theorem witness_TickFlipsTheLoopOnAnAcceptedToggle :
    gate configRef .heat false 1376256 1376256 = .noOp ∧ throttleOk 59999#32 (heat false 1310720) = false ∧
    (gate configRef .heat false 1310720 1376256 = .turnOn ∧ throttleOk 60000#32 (heat false 1310720) = true) ∧
    (gate configRef .heat true 1441792 1376256 = .turnOff ∧ throttleOk 60000#32 (heat true 1441792) = true) := by decide

/-- A TICK that turns the loop on and one that turns it off; a TICK where the gate answers `no_op`. -/
theorem witness_ToggleIsIdempotent :
    (∃ t, configWf (heat false 1310720).cfg = true ∧ (heat false 1310720).st.haveRoomTemp = true ∧
      exec (.tick 60000#32) (heat false 1310720) = .next t ∧ t.loop.active ≠ (heat false 1310720).loop.active) ∧
    (∃ t, exec (.tick 60000#32) (heat true 1441792) = .next t ∧ t.loop.active ≠ (heat true 1441792).loop.active) ∧
    gateNow (heat true 1310720) = .noOp ∧ answers (.tick 60000#32) (heat true 1310720) :=
  ⟨⟨_, by decide, rfl, rfl, by decide⟩, ⟨_, rfl, by decide⟩, by decide, answers_of (by decide)⟩

/-- In Active in HEAT, and in Inactive: the loop's invariant holds before the TICK. -/
theorem witness_CorrectedSetpointIsBounded :
    configWf (heat true 1310720).cfg = true ∧ loopInv (heat true 1310720) ∧ loopInv (heat false 1376256) ∧
    see (.tick 60000#32) (heat true 1310720) (·.loop.active) = some true ∧
    see (.tick 60000#32) (heat false 1376256) (·.loop.active) = some false := by decide

theorem witness_AdjustedRangeIsOrdered :
    s0.loop.heating = true ∧ { s0.loop with heating := false }.heating = false ∧ configWf configRef = true := by decide

/-- The first disable event, the second, and the saturated count. -/
theorem witness_DisableEventShrinks :
    ((0x00#8 : Byte) ≠ 0xFF#8 ∧ (0x00#8 + 1#8 : Byte).toNat < configRef.repeatDisableMin) ∧
    ((0x01#8 : Byte) ≠ 0xFF#8 ∧ configRef.repeatDisableMin ≤ (0x01#8 + 1#8 : Byte).toNat) ∧
    configRef.repeatDisableMin ≤ (0xFF#8 : Byte).toNat := by decide

/-- One millisecond before the interval; at it, in the grace period; at the end of the grace period. -/
theorem witness_AdaptationSchedule :
    (14999#32 - s0.loop.lastAdaptAt).toNat < s0.cfg.adaptIntervalMs.toNat ∧
    (s0.cfg.adaptIntervalMs.toNat ≤ (15000#32 - s0.loop.lastAdaptAt).toNat ∧
      (15000#32 - s0.loop.restartAt).toNat < s0.cfg.graceMs.toNat) ∧
    (s0.cfg.adaptIntervalMs.toNat ≤ (300000#32 - s0.loop.lastAdaptAt).toNat ∧
      s0.cfg.graceMs.toNat ≤ (300000#32 - s0.loop.restartAt).toNat) := by decide

/-- A gain one raw unit outside its bounds, a gain at each bound, and (A5, NW = 32) a value outside the Fx range. -/
theorem witness_GradientStepOfOneGain :
    ((524289 : Int) < 32768 ∨ (524288 : Int) < 524289) ∧ ((32768 : Int) ≤ 32768 ∧ (524288 : Int) ≤ 524288) ∧
    (∃ x ∈ [Int.fdiv (Int.fdiv (65536 * 13107200) 65536 * 13107200) 65536],
      x < fxMin { configRef with nw := 32 } ∨ fxMax { configRef with nw := 32 } < x) ∧
    (∀ x ∈ [Int.fdiv (65536 * 65536) 65536], fxMin configRef ≤ x ∧ x ≤ fxMax configRef) := by decide

theorem witness_GainStepIsBoundedAndCapped :
    configRef.kpMin ≤ configRef.kpMax ∧ 0 ≤ configRef.relCap ∧ 0 < configRef.scale ∧
    configRef.kpMin ≤ 131072 ∧ (131072 : Int) ≤ configRef.kpMax := by decide

theorem witness_FixedDiscreteNeverAdapts :
    (let s := { heat true 1310720 with cfg := { configRef with req := [], pidVariant := .fixedDiscrete } }
     s.cfg.pidVariant = .fixedDiscrete ∧ answers (.tick 60000#32) s ∧
     see (.tick 60000#32) s (·.loop.active) = some true) := ⟨rfl, ⟨_, rfl⟩, by decide⟩

theorem witness_SetTargetRetargets :
    (1540096 : Int) = fxOperand s0.cfg 1540096#32 ∧ (1540096 : Int) = s0.loop.target ∧
    (1376256 : Int) = fxOperand s0.cfg 1376256#32 ∧ (1376256 : Int) ≠ s0.loop.target := by decide

theorem witness_SymbolicSettersResolveOrFallBack : (1 < 2 ∧ 4 < 5 ∧ 5 < 6 ∧ 6 < 7) := by decide

/-- With and without a configuration that is ready; one that is not well-formed. -/
theorem witness_resets :
    (s1.cfg = (s1.newCfg.headD none).getD s1.cfg ∧ configWf s1.cfg = true ∧
      (1540096 : Int) = Int.fdiv (s1.cfg.outputMin + s1.cfg.outputMax) 2) ∧
    (let s := { s1 with newCfg := [some { configRef with req := [] }] }
     s0.cfg = (s.newCfg.headD none).getD s.cfg ∧ configWf s0.cfg = true) ∧
    (let s := { s1 with newCfg := [some { configRef with scale := 0 }] }
     configWf ((s.newCfg.headD none).getD s.cfg) = false) := by decide

/-- What an `on_response` answers is held to the Store's type: a temperature above the range, a byte beyond the function table. -/
theorem test_conform :
    (let st := Store.conform { configRef with nw := 16 }
       { storeReset with cur := { storeReset.cur with temperature := 40000 }, func := [(29, 0x01#8), (30, 0x02#8)] }
     st.cur.temperature = 32767 ∧ st.func = [(29, 0x01#8)] ∧ st.want = wantedNone) := by decide

/-- The conflict of 10 R41 (g) with 44 R245 (log 24): target 21, range [20, 23], corrected 23; SET_TARGET 25 gives the range
[24, 27] and leaves corrected. -/
theorem test_set_target_leaves_corrected :
    (let s := { heat true 1310720 with loop := { (heat true 1310720).loop with corrected := 1507328 } }
     see (.setTarget 1638400#32 0#32) s (fun t => (t.loop.adjustedMin, t.loop.adjustedMax, t.loop.corrected)) =
       some (1572864, 1769472, 1507328)) := by decide

/-- The conflict of 10 R41 (h) with 44 R244 (log 19): `kp = KP_MAX = -1.0` shrinks by 0.9375 to -0.9375. -/
theorem test_shrink_of_a_negative_gain :
    (let c := { configRef with kpMin := -131072, kpMax := -65536 }
     configWf { c with kpInit := -65536 } = true ∧
     (disableEvent c { s0.loop with kp := -65536, disableCount := 1#8 }).kp = -61440) := by decide

/-- Two RESETs, each with its own replacement, and one after them. -/
theorem test_replacements :
    (let s := { s1 with newCfg := [some { configRef with bufCap := 30 }, some { configRef with bufCap := 40 }],
                        port := [.resetPin, .resetPin, .resetPin] }
     (next? (Host.Core.run Sys2Proof.core 1 s)).map (·.cfg.bufCap) = some 30 ∧
     (next? (Host.Core.run Sys2Proof.core 2 s)).map (·.cfg.bufCap) = some 40 ∧
     (next? (Host.Core.run Sys2Proof.core 3 s)).map (·.cfg.bufCap) = some 40) := by decide

/-- For the statements about every operation but RESET (and TICK): one that answers a next state. -/
theorem witness_operations :
    Instr.linkDown 0#32 ≠ .reset ∧ (∀ now, Instr.linkDown 0#32 ≠ .tick now) ∧ answers (.linkDown 0#32) s1 :=
  ⟨by decide, nofun, _, rfl⟩

/-- A state with every latch set and a disabled request. -/
theorem witness_LatchesAreOneWay :
    (let s := { s1 with
       st := { s1.st with extTempMode := true, haveRoomTemp := true, firstRun := false }
       sch := [⟨true, false, 0x02#8, 0#32⟩, reqReset, reqReset] }
     s.st.extTempMode = true ∧ s.st.haveRoomTemp = true ∧ s.st.firstRun = false ∧
     s.sch[0]? = some ⟨true, false, 0x02#8, 0#32⟩ ∧ answers (.startCycle 0#32) s) :=
  ⟨rfl, rfl, rfl, rfl, _, rfl⟩

/-- A safe state in the middle of things, with an input presented, whose step answers a next state. -/
theorem witness_StepKeeps :
    (let s := (inFlight 0#32).present (.event 0x4#68)
     safe s ∧ storeMemInv s ∧ storeFx s ∧ defaultResponses s.cfg ∧ ∃ t, step s = .next t) :=
  ⟨by decide, by decide, by decide, by decide, _, rfl⟩

theorem witness_decoder_in_body : decoderInv (inBody 21 0x10#8) ∧ decoderInv (inHeader 1) ∧ decoderInv (inHeader 4) := by decide

theorem witness_EventsKeepTheGainsInBounds :
    configWf s0.cfg = true ∧ 0 ≤ s0.cfg.kpMax ∧ Instr.tick 60000#32 ≠ .reset ∧ gainsInBounds (heat true 1441792) ∧
    answers (.tick 60000#32) (heat true 1441792) := ⟨by decide, by decide, by decide, by decide, _, rfl⟩

theorem witness_ResetStateIsSafe : configWf configRef = true ∧ configWf s0.cfg = true := by decide
theorem witness_SafeRunsNeverStop : safe (heat true 1310720) ∧ configWf configRef = true ∧
    replacementsWf [none, some s0.cfg] := by decide

end Sys2Proof.Tests
end

section
/-! PROOFS. 00_scope.md R12: what the fixed-point operations, the payload encodings and the Fx operands answer
(OperandValuesDecode), and that every step keeps the Fx registers of the loop and the Store at `NW` bits
(StepKeepsTheFxRange). -/

namespace Sys2Proof.Machine

/-! ### The Fx range as powers of two, and the operands (00 R12, 20 R62, 30 R90 to R95) -/

section
variable (c : Config)

theorem fxMin_eq_neg_pow : fxMin c = -2 ^ (c.nw - 1) := by simp [fxMin]

theorem fxMax_eq_pow_sub_one : fxMax c = 2 ^ (c.nw - 1) - 1 := by simp [fxMax]

/-- The Fx range as a half-open interval. -/
theorem fxInRange_iff_pow {z : Int} : fxInRange c z = true ↔ -2 ^ (c.nw - 1) ≤ z ∧ z < 2 ^ (c.nw - 1) := by
  rw [fxInRange_iff, fxMin_eq_neg_pow, fxMax_eq_pow_sub_one, Int.le_sub_one_iff]

theorem fx_of_pos (n : Int) {d : Nat} (hd : 0 < d) : fx c n d = Int.fdiv (n * (c.scale : Int)) (d : Int) :=
  if_neg hd.ne'

/-- A divisor of 1 only scales. -/
theorem fx_one (n : Int) : fx c n 1 = n * (c.scale : Int) := by simp [fx_of_pos]

theorem dataAt_of_getElem? {n : Nat} {data : List Byte} {i : Nat} {b : Byte} (h : data[i]? = some b) :
    dataAt n data i = b := by simp [dataAt, List.getD, h]

/-- 30 R91: the entry of the code, or entry 0 for a code outside the table. -/
theorem tableEntry_eq {table : List Int} {b : Byte} {t : Int} (n : Nat)
    (h : table[b.toNat]? = some t ∨ (table[b.toNat]? = none ∧ table[0]? = some t)) : tableEntry table b n = t := by
  rcases h with h | ⟨hnone, hzero⟩
  · simp [tableEntry, List.getD, h]
  · simp [tableEntry, List.getD, hnone, hzero]

/-- Every 32-bit value has a place in `NW ≥ 32` bits. -/
theorem toInt_inRange (h : 32 ≤ c.nw) (arg : BitVec 32) : fxInRange c arg.toInt = true := by
  rw [fxInRange_iff_pow]
  have hlo : -2 ^ 31 ≤ arg.toInt := BitVec.le_toInt arg
  have hhi : arg.toInt < 2 ^ 31 := BitVec.toInt_lt
  have hpow : (2 : Int) ^ 31 ≤ 2 ^ (c.nw - 1) := pow_le_pow_right₀ (by decide) (by omega)
  omega

theorem fxOperand_of_inRange {arg : BitVec 32} (h : fxInRange c arg.toInt = true) :
    fxOperand c arg = arg.toInt := if_pos h

/-- 30 R95: an Fx operand is a value of `NW` bits, the free one too. -/
theorem fxOperand_inRange (arg : BitVec 32) : fxInRange c (fxOperand c arg) = true := by
  unfold fxOperand
  split
  · assumption
  · exact sat_inRange c _

end

/-- Settles O11, clause by clause, from the lemmas above. -/
theorem operandValuesDecode : Obligations.OperandValuesDecode := by
  refine ⟨fun c z => ?sat, fun c z => fxInRange_iff_pow c, fun c a b => ⟨rfl, rfl, rfl⟩,
    fun n data i b h => dataAt_of_getElem? h, fun c b => ?half, fun c table b n t h => ?table, fun c v d hd => ?unsigned,
    fun c arg h => fxOperand_of_inRange c (toInt_inRange c h arg),
    fun c arg hlo hhi => fxOperand_of_inRange c ((fxInRange_iff_pow c).mpr ⟨hlo, hhi⟩), fxOperand_inRange⟩
  case sat => rw [sat, clamp, fxMin_eq_neg_pow, fxMax_eq_pow_sub_one]
  case half => rw [signedHalf, fx_of_pos c _ (by decide)]; rfl
  case table => rw [tableTemp, tableEntry_eq n h, fx_one]
  case unsigned => rw [fxUnsigned, fx_of_pos c _ hd]

/-! ### The Fx range and the configuration -/

section
variable (c : Config)

theorem fxInRange_zero : fxInRange c 0 = true := by
  have := fxMin_neg c
  have := fxMax_nonneg c
  rw [fxInRange_iff]; omega

theorem fxAdd_inRange (a b : Int) : fxInRange c (fxAdd c a b) = true := sat_inRange c _
theorem fxSub_inRange (a b : Int) : fxInRange c (fxSub c a b) = true := sat_inRange c _
theorem fxMul_inRange (a b : Int) : fxInRange c (fxMul c a b) = true := sat_inRange c _

end

section
variable {c : Config}

theorem fxInRange_of_between {x lo hi : Int} (hlo : fxInRange c lo = true) (hhi : fxInRange c hi = true) (h1 : lo ≤ x)
    (h2 : x ≤ hi) : fxInRange c x = true := by
  rw [fxInRange_iff] at *; omega

/-- A clamp answers one of its three arguments, whatever their order. -/
theorem clamp_inRange_of_args {x lo hi : Int} (hx : fxInRange c x = true) (hlo : fxInRange c lo = true)
    (hhi : fxInRange c hi = true) : fxInRange c (clamp x lo hi) = true := by
  rw [fxInRange_iff] at *; simp only [clamp]; omega

theorem max_inRange {a b : Int} (ha : fxInRange c a = true) (hb : fxInRange c b = true) : fxInRange c (max a b) = true := by
  rw [fxInRange_iff] at *; omega

/-- The range reaches further below zero than above. -/
theorem neg_inRange {m : Int} (hm : fxInRange c m = true) (h0 : 0 ≤ m) : fxInRange c (-m) = true := by
  have := fxMin_eq c
  rw [fxInRange_iff] at *; omega

theorem midOf_bounds {lo hi : Int} (h : lo ≤ hi) : lo ≤ midOf lo hi ∧ midOf lo hi ≤ hi := by
  have e : midOf lo hi = (lo + hi) / 2 := Int.fdiv_eq_ediv_of_nonneg _ (by decide)
  omega

theorem midOf_inRange {lo hi : Int} (h : lo ≤ hi) (hlo : fxInRange c lo = true) (hhi : fxInRange c hi = true) :
    fxInRange c (midOf lo hi) = true :=
  fxInRange_of_between hlo hhi (midOf_bounds h).1 (midOf_bounds h).2

/-- 00 R8: an Fx parameter of a well-formed configuration is one of `NW` bits. -/
theorem fxParam_inRange (hc : configWf c = true) {p : Int} (hp : p ∈ fxParams c) : fxInRange c p = true := by
  simp only [configWf, Bool.and_eq_true, List.all_eq_true] at hc
  obtain ⟨⟨-, hall⟩, -⟩ := hc
  exact hall p hp

/-- 00 R8: the ranges of a well-formed configuration are in order. -/
theorem configWf_ranges (hc : configWf c = true) :
    c.kpMin ≤ c.kpMax ∧ c.kiMin ≤ c.kiMax ∧ c.kdMin ≤ c.kdMax ∧ c.outputMin ≤ c.outputMax := by
  simp only [configWf, rangesWf, Bool.and_eq_true, decide_eq_true_eq] at hc
  tauto

/-- 00 R8: the two anti-windup parameters are not negative. -/
theorem configWf_imax_nonneg (hc : configWf c = true) : 0 ≤ c.imaxFloor ∧ 0 ≤ c.imaxInit := by
  simp only [configWf, signsWf, Bool.and_eq_true, decide_eq_true_eq] at hc
  tauto

theorem outputs_inRange (hc : configWf c = true) : fxInRange c c.outputMin = true ∧ fxInRange c c.outputMax = true :=
  ⟨fxParam_inRange hc (by simp [fxParams]), fxParam_inRange hc (by simp [fxParams])⟩

/-- 44 R241: both ends of the adjusted range are of `NW` bits. -/
theorem adjustedRange_inRange (hc : configWf c = true) (heating : Bool) (t : Int) :
    fxInRange c (adjustedRange c heating t).1 = true ∧ fxInRange c (adjustedRange c heating t).2 = true := by
  obtain ⟨hmin, hmax⟩ := outputs_inRange hc
  obtain ⟨-, -, -, hle⟩ := configWf_ranges hc
  exact ⟨clamp_inRange c hle hmin hmax, clamp_inRange c hle hmin hmax⟩

end

/-! ### The Fx registers of the loop -/

/-- What the operations of the loop keep: every Fx register is of `NW` bits, and the anti-windup bound, whose negation bounds
the integral too, is not negative. -/
structure Loop.InFx (c : Config) (l : Loop) : Prop where
  target : fxInRange c l.target = true
  adjustedMin : fxInRange c l.adjustedMin = true
  adjustedMax : fxInRange c l.adjustedMax = true
  kp : fxInRange c l.kp = true
  ki : fxInRange c l.ki = true
  kd : fxInRange c l.kd = true
  integralMax : fxInRange c l.integralMax = true
  integral : fxInRange c l.integral = true
  prevError : fxInRange c l.prevError = true
  lastError : fxInRange c l.lastError = true
  lastDerivative : fxInRange c l.lastDerivative = true
  lastOutput : fxInRange c l.lastOutput = true
  corrected : fxInRange c l.corrected = true
  sKp : fxInRange c l.sKp = true
  sKi : fxInRange c l.sKi = true
  sKd : fxInRange c l.sKd = true
  integralMax_nonneg : 0 ≤ l.integralMax

theorem Loop.inFx_iff {c : Config} {l : Loop} :
    l.InFx c ↔ (∀ x ∈ l.fxRegs, fxInRange c x = true) ∧ 0 ≤ l.integralMax := by
  simp only [Loop.fxRegs, List.mem_cons, List.not_mem_nil, or_false, forall_eq_or_imp, forall_eq]
  constructor
  · intro h
    exact ⟨⟨h.target, h.adjustedMin, h.adjustedMax, h.kp, h.ki, h.kd, h.integralMax, h.integral, h.prevError, h.lastError,
      h.lastDerivative, h.lastOutput, h.corrected, h.sKp, h.sKi, h.sKd⟩, h.integralMax_nonneg⟩
  · rintro ⟨⟨h1, h2, h3, h4, h5, h6, h7, h8, h9, h10, h11, h12, h13, h14, h15, h16⟩, h0⟩
    exact ⟨h1, h2, h3, h4, h5, h6, h7, h8, h9, h10, h11, h12, h13, h14, h15, h16, h0⟩

section
variable {c : Config} {l : Loop}

theorem recomputeAdjusted_inFx (hc : configWf c = true) (h : l.InFx c) : (recomputeAdjusted c l).InFx c :=
  { h with
    adjustedMin := (adjustedRange_inRange hc _ _).1
    adjustedMax := (adjustedRange_inRange hc _ _).2 }

theorem updateDirection_inFx (hc : configWf c = true) (m : Mode) (h : l.InFx c) : (updateDirection c m l).InFx c := by
  rcases updateDirection_cases c m l with e | ⟨heating, e⟩ <;> rw [e]
  · exact h
  · exact recomputeAdjusted_inFx hc { h with }

theorem retarget_inFx (hc : configWf c = true) {t : Int} (ht : fxInRange c t = true) (h : l.InFx c) :
    (retarget c t l).InFx c :=
  recomputeAdjusted_inFx hc { h with target := ht, integral := fxInRange_zero c }

theorem onFlip_inFx (room : Int) (now : Time) (h : l.InFx c) : (onFlip c room now l).InFx c :=
  { h with integral := fxInRange_zero c, prevError := fxSub_inRange c _ _ }

/-- 44 R244: a shrink ends at the floors, which are of `NW` bits, the one of the bound not negative. -/
theorem disableEvent_inFx (hc : configWf c = true) (h : l.InFx c) : (disableEvent c l).InFx c := by
  have hkp : fxInRange c c.kpFloor = true := fxParam_inRange hc (by simp [fxParams, Config.kpFloor])
  have hfloor : fxInRange c c.imaxFloor = true := fxParam_inRange hc (by simp [fxParams])
  simp only [disableEvent]
  split
  · exact { h with
      kp := max_inRange (fxMul_inRange c _ _) hkp
      integralMax := max_inRange (fxMul_inRange c _ _) hfloor
      integralMax_nonneg := (configWf_imax_nonneg hc).1.trans (le_max_right _ _) }
  · exact { h with }

/-- 44 R236: the integral stays between the bound and its negation. -/
theorem nextIntegral_inRange (h : l.InFx c) (e : Int) (dtMs : Nat) : fxInRange c (nextIntegral c l e dtMs) = true :=
  clamp_inRange_of_args (fxAdd_inRange c _ _) (neg_inRange h.integralMax h.integralMax_nonneg) h.integralMax

theorem evaluate_inFx (cur : Int) (dtMs : Nat) (h : l.InFx c) : (evaluate c cur dtMs l).InFx c :=
  { h with
    integral := nextIntegral_inRange h _ _
    prevError := fxSub_inRange c _ _
    lastError := fxSub_inRange c _ _
    lastDerivative := sat_inRange c _
    lastOutput := fxAdd_inRange c _ _ }

theorem project_inRange (h : l.InFx c) (out : Int) : fxInRange c (project c l out) = true := by
  refine clamp_inRange_of_args ?_ h.adjustedMin h.adjustedMax
  split
  · exact fxAdd_inRange c _ _
  · exact fxSub_inRange c _ _

/-! ### Gradient adaptation (44 R250 to R255) -/

/-- R254, R255: the step of one gain leaves the gain and its smoothed delta at `NW` bits: the midpoint and the capped gain lie
between the bounds of the gain, and a step with an intermediate value outside the range
leaves both as they were. -/
theorem adaptOne_inRange {lastError r lr : Int} {elMs : Nat} {g sm gmin gmax : Int} (hle : gmin ≤ gmax)
    (hmin : fxInRange c gmin = true) (hmax : fxInRange c gmax = true) (hg : fxInRange c g = true)
    (hsm : fxInRange c sm = true) :
    fxInRange c (adaptOne c lastError elMs g r lr sm gmin gmax).gain = true ∧
    fxInRange c (adaptOne c lastError elMs g r lr sm gmin gmax).smooth = true := by
  simp only [adaptOne]
  split
  case isTrue => exact ⟨midOf_inRange hle hmin hmax, hsm⟩
  case isFalse =>
    split
    case isTrue hfinite =>
      simp only [Gradient.finite, Bool.and_eq_true] at hfinite
      exact ⟨clamp_inRange c hle hmin hmax, hfinite.2⟩
    case isFalse => exact ⟨hg, hsm⟩

theorem adaptGains_inFx (hc : configWf c = true) (elMs : Nat) (h : l.InFx c) : (adaptGains c elMs l).InFx c := by
  obtain ⟨hp, hi, hd, -⟩ := configWf_ranges hc
  have param : ∀ {p : Int}, p ∈ fxParams c → fxInRange c p = true := fxParam_inRange hc
  obtain ⟨kp, sKp⟩ : fxInRange c (adaptKp c elMs l).gain = true ∧ fxInRange c (adaptKp c elMs l).smooth = true :=
    adaptOne_inRange hp (param (by simp [fxParams])) (param (by simp [fxParams])) h.kp h.sKp
  obtain ⟨ki, sKi⟩ : fxInRange c (adaptKi c elMs l).gain = true ∧ fxInRange c (adaptKi c elMs l).smooth = true :=
    adaptOne_inRange hi (param (by simp [fxParams])) (param (by simp [fxParams])) h.ki h.sKi
  obtain ⟨kd, sKd⟩ : fxInRange c (adaptKd c elMs l).gain = true ∧ fxInRange c (adaptKd c elMs l).smooth = true :=
    adaptOne_inRange hd (param (by simp [fxParams])) (param (by simp [fxParams])) h.kd h.sKd
  exact { h with kp, sKp, ki, sKi, kd, sKd }

end

/-- 10 R40: the loop after RESET. -/
theorem loopReset_inFx {c : Config} (hc : configWf c = true) : (loopReset c).InFx c := by
  have param : ∀ {p : Int}, p ∈ fxParams c → fxInRange c p = true := fxParam_inRange hc
  obtain ⟨hmin, hmax⟩ := outputs_inRange hc
  obtain ⟨-, -, -, hle⟩ := configWf_ranges hc
  have htarget : fxInRange c (targetReset c) = true := midOf_inRange hle hmin hmax
  obtain ⟨hlo, hhi⟩ := adjustedRange_inRange hc true (targetReset c)
  have zero := fxInRange_zero c
  exact {
    target := htarget, adjustedMin := hlo, adjustedMax := hhi
    kp := param (by simp [fxParams, loopReset])
    ki := param (by simp [fxParams, loopReset])
    kd := param (by simp [fxParams, loopReset])
    integralMax := param (by simp [fxParams, loopReset])
    integral := zero, prevError := zero, lastError := zero, lastDerivative := zero, lastOutput := zero
    corrected := htarget, sKp := zero, sKi := zero, sKd := zero
    integralMax_nonneg := (configWf_imax_nonneg hc).2 }

/-! ### The loop in the state -/

/-- The loop of a state, under the configuration in force. -/
abbrev loopInFx (s : State) : Prop := s.loop.InFx s.cfg

section
variable {s : State}

theorem toggle_inFx (g : GateAnswer) (now : Time) (hc : configWf s.cfg = true) (h : loopInFx s) :
    loopInFx (toggle g now s) := by
  rcases toggle_cases g now s with ⟨-, e⟩ | ⟨-, -, e⟩ | ⟨-, -, e⟩ | ⟨-, -, e⟩ <;> rw [e]
  · exact h
  · exact h
  · exact onFlip_inFx _ now { h with }
  · exact onFlip_inFx _ now (disableEvent_inFx hc { h with })

theorem adapt_inFx (now : Time) (hc : configWf s.cfg = true) (h : loopInFx s) : loopInFx (adapt now s) := by
  unfold loopInFx
  rw [adapt_cfg]
  rcases adapt_loop_cases now s with e | e | e <;> rw [e]
  · exact h
  · exact { h with }
  · exact adaptGains_inFx hc _ { h with }

theorem pidStep_inFx (cur : Int) (dtMs : Nat) (now : Time) (hc : configWf s.cfg = true) (h : loopInFx s) :
    loopInFx (pidStep cur dtMs now s) := by
  have heval : (evaluate s.cfg cur dtMs s.loop).InFx s.cfg := evaluate_inFx cur dtMs h
  simp only [pidStep]
  split
  · exact adapt_inFx now hc { heval with corrected := project_inRange heval _ }
  · exact { heval with corrected := project_inRange heval _ }

end

/-! ### What frames and received bytes do to the configuration and the loop -/

/-- 40 R125: `dispatch` runs a frame's operation, or only notifies the scheduler, or does nothing. -/
theorem dispatch_cases (now : Time) (s : State) :
    (∃ ty : FrameType, dispatch now s = exec (ty.instr s.dec.frame now) s) ∨
    (∃ sub, dispatch now s = .next (processResponse sub now s)) ∨ dispatch now s = .next s := by
  cases hty : frameTypeOf (memRead s.dec.buf 1) s.dec.payload with
  | ok ty => exact .inl ⟨ty, dispatch_known hty⟩
  | error e =>
    have hty' : frameTypeOf (memRead s.dec.buf 1) s.dec.frame.data = .error e := hty
    cases e with
    | subtype sub => exact .inr (.inl ⟨sub, by simp only [dispatch, hty']⟩)
    | noSubtype => exact .inr (.inr (by simp only [dispatch, hty']))
    | command cmd => exact .inr (.inr (by simp only [dispatch, hty']))

/-- Two states with the same configuration, Store and loop: a received byte that completes no frame makes such a pair. -/
def State.SameCfgStLoop (s t : State) : Prop := t.cfg = s.cfg ∧ t.st = s.st ∧ t.loop = s.loop

/-- 40 R110 to R118: a received byte leaves the configuration, the Store and the loop alone, or goes on to dispatch the frame
that it completes. -/
theorem rxByte_next_cases {b : Byte} {now : Time} {s t : State} (h : exec (.rxByte b now) s = .next t) :
    s.SameCfgStLoop t ∨ ∃ u, s.SameCfgStLoop u ∧ dispatch now u = .next t := by
  cases hf : s.dec.fsm with
  | seeking =>
    rw [rxByte_seeking hf] at h
    cases h
    refine .inl ?_
    unfold seek
    split <;> exact ⟨rfl, rfl, rfl⟩
  | readingHeader =>
    by_cases hb : s.dec.count < s.cfg.bufCap
    · rw [rxByte_header hf hb] at h
      cases h
      refine .inl ?_
      unfold headerDone oversize
      split
      · split <;> exact ⟨rfl, rfl, rfl⟩
      · exact ⟨rfl, rfl, rfl⟩
    · rw [rxByte_fault (by simp [hf]) (by omega)] at h
      cases h
  | readingBody =>
    by_cases hb : s.dec.count < s.cfg.bufCap
    · rw [rxByte_body hf hb] at h
      split at h
      · unfold complete at h
        split at h
        · refine .inr ⟨_, ?_, h⟩
          exact ⟨rfl, rfl, rfl⟩
        · cases h; exact .inl ⟨rfl, rfl, rfl⟩
      · split at h <;> cases h <;> exact .inl ⟨rfl, rfl, rfl⟩
    · rw [rxByte_fault (by simp [hf]) (by omega)] at h
      cases h

/-- 41: no frame writes the configuration or the loop. -/
theorem frame_keeps_cfg_loop {ty : FrameType} {f : Frame} {now : Time} {s t : State}
    (h : exec (ty.instr f now) s = .next t) : t.cfg = s.cfg ∧ t.loop = s.loop := by
  cases ty <;> cases h <;> simp

theorem rxByte_keeps_cfg_loop {b : Byte} {now : Time} {s t : State} (h : exec (.rxByte b now) s = .next t) :
    t.cfg = s.cfg ∧ t.loop = s.loop := by
  rcases rxByte_next_cases h with ⟨hcfg, -, hloop⟩ | ⟨u, ⟨hcfg, -, hloop⟩, hd⟩
  · exact ⟨hcfg, hloop⟩
  · obtain ⟨v, hv, hvcfg, -, -, hvloop, -⟩ := dispatch_next now u
    cases hv.symm.trans hd
    exact ⟨hvcfg.trans hcfg, hvloop.trans hloop⟩

/-- 10 R36, 20 R72: only TICK, SET_TARGET and RESET write the loop, and only RESET the configuration. -/
theorem exec_loop_cases {i : Instr} {s t : State} (h : exec i s = .next t) :
    (∃ now, i = .tick now) ∨ (∃ arg now, i = .setTarget arg now) ∨ i = .reset ∨ (t.cfg = s.cfg ∧ t.loop = s.loop) := by
  cases i with
  | tick now => exact .inl ⟨now, rfl⟩
  | setTarget arg now => exact .inr (.inl ⟨arg, now, rfl⟩)
  | reset => exact .inr (.inr (.inl rfl))
  | rxByte b now => exact .inr (.inr (.inr (rxByte_keeps_cfg_loop h)))
  | startCycle now => cases h; refine .inr (.inr (.inr ?_)); split <;> simp
  | _ => cases h; simp

/-! ### The Fx values of the Store -/

/-- The Fx values of a Store, by field. -/
structure Store.InFx (c : Config) (st : Store) : Prop where
  temperature : fxInRange c st.cur.temperature = true
  compressorFrequency : fxInRange c st.status.compressorFrequency = true
  inputPower : fxInRange c st.status.inputPower = true
  kwh : fxInRange c st.status.kwh = true
  runtimeHours : fxInRange c st.status.runtimeHours = true
  roomTemperature : fxInRange c st.status.roomTemperature = true
  wanted : ∀ t, st.want.temperature = some t → fxInRange c t = true

theorem Store.inFx_iff {c : Config} {st : Store} : st.InFx c ↔ ∀ x ∈ st.fxRegs, fxInRange c x = true := by
  simp only [Store.fxRegs, List.mem_append, List.mem_cons, List.not_mem_nil, or_false, or_imp, forall_and, forall_eq,
    Option.mem_toList]
  constructor
  · intro h
    exact ⟨⟨h.temperature, h.compressorFrequency, h.inputPower, h.kwh, h.runtimeHours, h.roomTemperature⟩, h.wanted⟩
  · rintro ⟨⟨h1, h2, h3, h4, h5, h6⟩, h7⟩
    exact ⟨h1, h2, h3, h4, h5, h6, h7⟩

/-- 10 R40: the Store after RESET. -/
theorem storeReset_inFx (c : Config) : storeReset.InFx c :=
  have zero := fxInRange_zero c
  ⟨zero, zero, zero, zero, zero, zero, by simp [storeReset, wantedNone]⟩

section
variable {c : Config} (n : Nat) (data : List Byte)

theorem signedHalf_inRange (b : Byte) : fxInRange c (signedHalf c b) = true := sat_inRange c _
theorem tableTemp_inRange (table : List Int) (b : Byte) : fxInRange c (tableTemp c table b n) = true := sat_inRange c _
theorem fxUnsigned_inRange (v d : Nat) : fxInRange c (fxUnsigned c v d) = true := sat_inRange c _

theorem settingsTemperature_inRange : fxInRange c (settingsTemperature c n data) = true := by
  simp only [settingsTemperature]
  split
  · exact signedHalf_inRange _
  · exact tableTemp_inRange n _ _

theorem roomTemperatureOf_inRange : fxInRange c (roomTemperatureOf c n data) = true := by
  unfold roomTemperatureOf
  split
  · exact signedHalf_inRange _
  · exact tableTemp_inRange n _ _

theorem runtimeOf_inRange {old : Int} (h : fxInRange c old = true) : fxInRange c (runtimeOf c n data old) = true := by
  simp only [runtimeOf]
  split
  · exact fxUnsigned_inRange _ _
  · exact h

theorem word16Of_inRange (i d : Nat) {old : Int} (h : fxInRange c old = true) :
    fxInRange c (word16Of c n data i d old) = true := by
  unfold word16Of
  split
  · exact fxUnsigned_inRange _ _
  · exact h

end

section
variable {c : Config} {st : Store}

/-- 41 R144: what is wanted and what is current are both of `NW` bits, so their merge is. -/
theorem mergeWanted_inFx (h : st.InFx c) :
    Store.InFx c { st with cur := mergeWanted st.cur st.want, want := wantedNone } :=
  { h with
    temperature := by
      cases hw : st.want.temperature with
      | none => simpa [mergeWanted, hw] using h.temperature
      | some t => simpa [mergeWanted, hw] using h.wanted t hw
    wanted := by simp [wantedNone] }

theorem storeSettings_inFx (h : st.InFx c) {new : Settings} (hnew : fxInRange c new.temperature = true) :
    (storeSettings new st).InFx c :=
  { h with
    temperature := hnew
    wanted := by
      simp only [storeSettings]
      split
      · simpa [wantedAll] using hnew
      · exact h.wanted }

theorem storeRoomtemp_inFx (n : Nat) (data : List Byte) (h : st.InFx c) : (storeRoomtemp c n data st).InFx c :=
  { h with
    roomTemperature := roomTemperatureOf_inRange n data
    runtimeHours := runtimeOf_inRange n data h.runtimeHours }

theorem statusOf_inFx (n : Nat) (data : List Byte) (h : st.InFx c) :
    Store.InFx c { st with status := statusOf c n data st.status } :=
  { h with
    compressorFrequency := fxUnsigned_inRange _ _
    inputPower := word16Of_inRange n data _ _ h.inputPower
    kwh := word16Of_inRange n data _ _ h.kwh }

/-- The byte spaces of the Store hold no Fx value. -/
theorem storeMemories_inFx (timerRaw func : Memory) (h : st.InFx c) :
    Store.InFx c { st with timerRaw := timerRaw, func := func } :=
  { h with }

end

/-! ### The Store in the state -/


/-- `storeFx`, by field. -/
abbrev storeInFx (s : State) : Prop := s.st.InFx s.cfg

section
variable {s : State}

/-- 42 R188: whatever `on_response` a request has. -/
theorem processResponse_inFx (code : Byte) (now : Time) (h : storeInFx s) : storeInFx (processResponse code now s) :=
  Store.inFx_iff.mpr (processResponse_storeFx (Store.inFx_iff.mp h))

theorem notifySettings_inFx (changed : Bool) (h : storeInFx s) : storeInFx (s.notifySettings changed) := by
  rwa [storeInFx, State.notifySettings_cfg, State.notifySettings_st]

theorem notifyStatus_inFx (old : Status) (h : storeInFx s) : storeInFx (s.notifyStatus old) := by
  rwa [storeInFx, State.notifyStatus_cfg, State.notifyStatus_st]

theorem applyAck_inFx (h : storeInFx s) : storeInFx (applyAck s) := notifySettings_inFx _ (mergeWanted_inFx h)

theorem applySettings_inFx (data : List Byte) (h : storeInFx s) : storeInFx (applySettings data s) := by
  simp only [applySettings]
  split
  · exact h
  · exact notifySettings_inFx _ (storeSettings_inFx h (settingsTemperature_inRange s.freeCtr data))

theorem applyRoomtemp_inFx (data : List Byte) (h : storeInFx s) : storeInFx (applyRoomtemp data s) := by
  unfold applyRoomtemp
  split
  · exact h
  · exact notifyStatus_inFx _ (storeRoomtemp_inFx s.freeCtr data h)

theorem applyTimers_inFx (data : List Byte) (h : storeInFx s) : storeInFx (applyTimers data s) := by
  unfold applyTimers
  split
  · exact h
  · exact storeMemories_inFx _ _ h

theorem applyStatus_inFx (data : List Byte) (h : storeInFx s) : storeInFx (applyStatus data s) := by
  unfold applyStatus
  split
  · exact h
  · exact notifyStatus_inFx _ (statusOf_inFx s.freeCtr data h)

theorem applyFunc_inFx (base : Nat) (data : List Byte) (h : storeInFx s) : storeInFx (applyFunc base data s) := by
  unfold applyFunc
  split
  · exact h
  · exact storeMemories_inFx _ _ h

/-- 41: every frame keeps the Fx values of the Store. -/
theorem frame_keeps_storeInFx {ty : FrameType} {f : Frame} {now : Time} {t : State} (hs : storeInFx s)
    (h : exec (ty.instr f now) s = .next t) : storeInFx t := by
  cases ty <;> cases h
  case ack => exact applyAck_inFx hs
  case settings => exact processResponse_inFx _ now (applySettings_inFx f.data hs)
  case roomtemp => exact processResponse_inFx _ now (applyRoomtemp_inFx f.data hs)
  case timers => exact processResponse_inFx _ now (applyTimers_inFx f.data hs)
  case status => exact processResponse_inFx _ now (applyStatus_inFx f.data hs)
  case standby => exact processResponse_inFx _ now hs
  case funcLo => exact processResponse_inFx _ now (applyFunc_inFx _ f.data hs)
  case funcHi => exact processResponse_inFx _ now (applyFunc_inFx _ f.data hs)
  case connA => exact { hs with }
  case connB => exact { hs with }

/-- 40: so does every received byte. -/
theorem rxByte_keeps_storeInFx {b : Byte} {now : Time} {t : State} (hs : storeInFx s)
    (h : exec (.rxByte b now) s = .next t) : storeInFx t := by
  rcases rxByte_next_cases h with ⟨hcfg, hst, -⟩ | ⟨u, ⟨hcfg, hst, -⟩, hd⟩
  · rwa [storeInFx, hcfg, hst]
  · have hu : storeInFx u := by rwa [storeInFx, hcfg, hst]
    rcases dispatch_cases now u with ⟨ty, e⟩ | ⟨sub, e⟩ | e <;> rw [e] at hd
    · exact frame_keeps_storeInFx hu hd
    · cases hd; exact processResponse_inFx sub now hu
    · cases hd; exact hu

/-- 41 R160 to R165: a setter, when the temperature it leaves wanted is of `NW` bits. -/
theorem setWant_inFx {u : State} {want : Wanted} (field : Nat) (value : Int) (hcfg : u.cfg = s.cfg) (hst : u.st = s.st)
    (hs : storeInFx s) (hw : ∀ t, want.temperature = some t → fxInRange s.cfg t = true) :
    storeInFx (u.setWant want field value) := by
  rw [storeInFx, State.setWant_cfg, State.setWant_st, hcfg, hst]
  exact { hs with wanted := hw }

/-- A setter of an enumeration leaves the wanted temperature alone. -/
theorem checkSym_setWant_inFx {want : Wanted} (field n : Nat) (sym : Byte) (value : Int) (hs : storeInFx s)
    (hw : want.temperature = s.st.want.temperature) : storeInFx ((s.checkSym field n sym).setWant want field value) :=
  setWant_inFx field value (s.checkSym_cfg field n sym) (s.checkSym_st field n sym) hs (hw ▸ hs.wanted)

theorem toggle_storeInFx (g : GateAnswer) (now : Time) (hs : storeInFx s) : storeInFx (toggle g now s) := by
  rcases toggle_cases g now s with ⟨-, e⟩ | ⟨-, -, e⟩ | ⟨-, -, e⟩ | ⟨-, -, e⟩ <;> rw [e] <;> exact { hs with }

/-- 44 R238: the setpoint that goes into the Store is a register of the loop. -/
theorem writeBack_storeInFx (hl : loopInFx s) (hs : storeInFx s) : storeInFx (writeBack s) :=
  { hs with wanted := fun _ hv => Option.some.inj hv ▸ hl.corrected }

end

/-! ### Every operation and every step -/

/-- What every operation does: it leaves the Fx registers of the loop at `NW` bits, and those of the Store if they were. -/
def State.KeepsFx (s t : State) : Prop := loopInFx t ∧ (storeInFx s → storeInFx t)

section
variable {s t : State}

theorem control_keepsFx (dtMs : Nat) (now : Time) (hc : configWf s.cfg = true) (hl : loopInFx s) :
    s.KeepsFx (control dtMs now s) := by
  simp only [control]
  generalize hu : toggle _ now _ = u
  have hcfg : u.cfg = s.cfg := by rw [← hu, toggle_cfg]
  have hloop : loopInFx u := hu ▸ toggle_inFx _ now hc (updateDirection_inFx hc _ hl)
  have hst : storeInFx s → storeInFx u := fun hs => hu ▸ toggle_storeInFx _ now { hs with }
  split
  · have hv := pidStep_inFx s.st.status.roomTemperature dtMs now (hcfg ▸ hc) hloop
    refine ⟨hv, fun hs => writeBack_storeInFx hv ?_⟩
    rw [storeInFx, pidStep_cfg, pidStep_st]
    exact hst hs
  · have hv : loopInFx (pidNeutral u) := { hloop with corrected := hloop.target }
    exact ⟨hv, fun hs => writeBack_storeInFx hv (hst hs)⟩

/-- 44 R230, R231: TICK. -/
theorem tick_keepsFx {now : Time} (hc : configWf s.cfg = true) (hl : loopInFx s) (h : exec (.tick now) s = .next t) :
    s.KeepsFx t := by
  cases h
  dsimp only
  split
  · exact control_keepsFx (s := { s with loop := { s.loop with lastTickAt := now } }) _ now hc { hl with }
  · exact ⟨{ hl with }, id⟩

/-- 44 R245: SET_TARGET. -/
theorem setTarget_keepsFx {arg : BitVec 32} {now : Time} (hc : configWf s.cfg = true) (hl : loopInFx s)
    (h : exec (.setTarget arg now) s = .next t) : s.KeepsFx t := by
  cases h
  split
  · exact ⟨hl, id⟩
  · exact ⟨retarget_inFx hc (fxOperand_inRange s.cfg arg) hl, id⟩

/-- 70 R300: RESET, under the configuration that it brings into force. -/
theorem reset_keepsFx (h : exec .reset s = .next t) : s.KeepsFx t := by
  rcases execReset_cases s with ⟨hc, e⟩ | ⟨-, e⟩ <;> cases e.symm.trans h
  exact ⟨loopReset_inFx hc, fun _ => storeReset_inFx _⟩

/-- The operations that do not write the loop keep the Fx values of the Store. -/
theorem exec_keeps_storeInFx {i : Instr} (htick : ∀ now, i ≠ .tick now) (hreset : i ≠ .reset) (hs : storeInFx s)
    (h : exec i s = .next t) : storeInFx t := by
  cases i with
  | tick now => exact absurd rfl (htick now)
  | reset => exact absurd rfl hreset
  | fAck f now => exact frame_keeps_storeInFx (ty := .ack) (f := f) (now := now) hs h
  | fSettings f now => exact frame_keeps_storeInFx (ty := .settings) hs h
  | fRoomtemp f now => exact frame_keeps_storeInFx (ty := .roomtemp) hs h
  | fTimers f now => exact frame_keeps_storeInFx (ty := .timers) hs h
  | fStatus f now => exact frame_keeps_storeInFx (ty := .status) hs h
  | fStandby f now => exact frame_keeps_storeInFx (ty := .standby) (f := f) hs h
  | fFuncLo f now => exact frame_keeps_storeInFx (ty := .funcLo) hs h
  | fFuncHi f now => exact frame_keeps_storeInFx (ty := .funcHi) hs h
  | fConnA f now => exact frame_keeps_storeInFx (ty := .connA) (f := f) (now := now) hs h
  | fConnB f now => exact frame_keeps_storeInFx (ty := .connB) (f := f) (now := now) hs h
  | rxByte b now => exact rxByte_keeps_storeInFx hs h
  | startCycle now =>
    cases h
    split
    · exact hs
    · rwa [storeInFx, sendNextAfter_cfg, sendNextAfter_st]
  | timeout code now => cases h; rwa [storeInFx, timeoutEffect_cfg, timeoutEffect_st]
  | setTarget arg now => cases h; split <;> exact hs
  | setTemperature arg now =>
    cases h
    exact setWant_inFx _ _ rfl rfl hs fun _ hv => Option.some.inj hv ▸ fxOperand_inRange s.cfg arg
  | setPower sym now | setMode sym now | setFan sym now | setVane sym now | setWidevane sym now =>
    cases h
    exact checkSym_setWant_inFx _ _ sym _ hs rfl
  | linkDown now => cases h; exact { hs with }
  | nop now | reservedD now | reservedE now | reservedF now => cases h; exact hs

/-- Every operation, under a well-formed configuration. -/
theorem exec_keepsFx {i : Instr} (hc : configWf s.cfg = true) (hl : loopInFx s) (h : exec i s = .next t) :
    s.KeepsFx t := by
  by_cases htick : ∃ now, i = .tick now
  · obtain ⟨now, rfl⟩ := htick
    exact tick_keepsFx hc hl h
  by_cases hreset : i = .reset
  · subst hreset
    exact reset_keepsFx h
  refine ⟨?_, fun hs => exec_keeps_storeInFx (fun now e => htick ⟨now, e⟩) hreset hs h⟩
  rcases exec_loop_cases h with hi | ⟨arg, now, rfl⟩ | hi | ⟨hcfg, hloop⟩
  · exact absurd hi htick
  · exact (setTarget_keepsFx hc hl h).1
  · exact absurd hi hreset
  · rwa [loopInFx, hcfg, hloop]

end

/-- Settles O56: every operation keeps the Fx registers (`exec_keepsFx`), with the anti-windup bound of `loopInv`. -/
theorem stepKeepsTheFxRange : Obligations.StepKeepsTheFxRange := by
  rintro s t hc ⟨hbound, -⟩ hfx h
  rcases step_next_cases h with ⟨-, rfl⟩ | ⟨x, rest, -, -, hx⟩
  · exact ⟨hfx, id⟩
  · obtain ⟨hloop, hst⟩ := exec_keepsFx (s := { s with port := rest }) hc (Loop.inFx_iff.mpr ⟨hfx, hbound⟩) hx
    exact ⟨(Loop.inFx_iff.mp hloop).1, fun hs => Store.inFx_iff.mp (hst (Store.inFx_iff.mpr hs))⟩

end Sys2Proof.Machine
end

section
/-! PROOFS. 10_state.md R41: how an invariant of every operation becomes one of every step, what RESET answers as an invariant
sees it, and that every step keeps the decoder's invariant (StepKeepsTheDecoder). -/

namespace Sys2Proof.Machine

/-! ### From operations to steps -/

/-- A property that does not speak of the inputs to come and that every operation keeps is kept by every step. -/
theorem step_keeps {P : State → Prop} (hport : ∀ {s : State} (rest : List Input), P s → P { s with port := rest })
    (hexec : ∀ {i : Instr} {s t : State}, configWf s.cfg = true → P s → exec i s = .next t → P t) {s t : State}
    (hc : configWf s.cfg = true) (hs : P s) (h : step s = .next t) : P t := by
  rcases step_next_cases h with ⟨-, rfl⟩ | ⟨x, rest, -, -, hx⟩
  · exact hs
  · exact hexec (s := { s with port := rest }) hc (hport rest hs) hx

/-- A RESET that answers is one under a well-formed configuration. -/
theorem exec_reset_eq_next {s t : State} (h : exec .reset s = .next t) :
    configWf s.resetCfg = true ∧ t = afterReset s := by
  rcases execReset_cases s with ⟨hc, e⟩ | ⟨-, e⟩ <;> cases e.symm.trans h
  exact ⟨hc, rfl⟩

/-- 00 R8: the frame buffer has room for a whole header and a checksum. -/
theorem configWf_bufCap {c : Config} (hc : configWf c = true) : 6 ≤ c.bufCap := by
  simp only [configWf, sizesWf, Bool.and_eq_true, decide_eq_true_eq] at hc
  omega

/-! ### The decoder's invariant, by the decoder's state -/

section
variable {s : State}

/-- 20 R60: the frame buffer is in canonical form and inside its capacity. -/
def State.BufferOk (s : State) : Prop := s.dec.buf.wf = true ∧ s.dec.buf.below s.cfg.bufCap = true

theorem decoderInv_bufferOk (h : decoderInv s) : s.BufferOk := by
  obtain ⟨-, -, -, hwf, hbelow⟩ := h
  exact ⟨hwf, hbelow⟩

theorem decoderInv_of_seeking (hf : s.dec.fsm = .seeking) (hn : s.dec.count = 0) (hb : s.BufferOk) : decoderInv s := by
  simp [decoderInv, hf, hn, hb.1, hb.2]

theorem decoderInv_of_header (hf : s.dec.fsm = .readingHeader) (h1 : 1 ≤ s.dec.count) (h4 : s.dec.count ≤ 4)
    (hb : s.BufferOk) : decoderInv s := by
  simp [decoderInv, hf, hb.1, hb.2]; omega

theorem decoderInv_of_body (hf : s.dec.fsm = .readingBody) (h5 : 5 ≤ s.dec.count)
    (hlen : s.dec.count ≤ s.dec.len.toNat + 5) (hcap : s.dec.len.toNat + 6 ≤ s.cfg.bufCap) (hb : s.BufferOk) :
    decoderInv s := by
  simp [decoderInv, hf, hb.1, hb.2]; omega

/-- 40 R112, R115: a byte stored inside the buffer. -/
theorem bufferOk_write (hb : s.BufferOk) {i : Nat} (hi : i < s.cfg.bufCap) (v : Byte) {t : State} (hcfg : t.cfg = s.cfg)
    (hbuf : t.dec.buf = memWrite s.dec.buf i v) : t.BufferOk := by
  unfold State.BufferOk
  rw [hcfg, hbuf]
  exact ⟨memWrite_wf hb.1 i v, memWrite_below hb.2 hi v⟩

/-- 10 R40: the decoder after RESET. -/
theorem decoderInv_resetOf (c : Config) : decoderInv (State.resetOf c) :=
  decoderInv_of_seeking rfl rfl ⟨rfl, rfl⟩

/-! ### Receiving a byte -/

theorem seek_keeps_decoderInv (hc : configWf s.cfg = true) (b : Byte) (hs : decoderInv s) : decoderInv (seek b s) := by
  unfold seek
  split
  · have hcap : 6 ≤ s.cfg.bufCap := configWf_bufCap hc
    exact decoderInv_of_header rfl (by simp) (by simp) (bufferOk_write (decoderInv_bufferOk hs) (by omega) _ rfl rfl)
  · exact hs

/-- 40 R113, R114: the length byte is too large for the buffer, or begins a body that fits. -/
theorem headerDone_decoderInv (b : Byte) (hn : s.dec.count = 5) (hb : s.BufferOk) : decoderInv (headerDone b s) := by
  unfold headerDone
  split
  · exact decoderInv_of_seeking rfl rfl hb
  · exact decoderInv_of_body rfl hn.ge (show s.dec.count ≤ b.toNat + 5 by omega)
      (show b.toNat + 6 ≤ s.cfg.bufCap by omega) hb

/-- 40 R116: after the last byte of a frame the decoder seeks again, whatever the frame does. -/
theorem complete_decoderInv {now : Time} {t : State} (hb : s.BufferOk) (h : complete now s = .next t) : decoderInv t := by
  obtain ⟨u, hu, hcfg, -, hdec, -⟩ := complete_next now s
  cases hu.symm.trans h
  refine decoderInv_of_seeking (by rw [hdec]) (by rw [hdec]) ?_
  rwa [State.BufferOk, hcfg, hdec]

theorem rxByte_keeps_decoderInv {b : Byte} {now : Time} {t : State} (hc : configWf s.cfg = true) (hs : decoderInv s)
    (h : exec (.rxByte b now) s = .next t) : decoderInv t := by
  have ⟨_, hheader, hbody, _⟩ := hs
  have room : s.dec.count < s.cfg.bufCap → State.BufferOk
      { s with dec := { s.dec with buf := memWrite s.dec.buf s.dec.count b, count := s.dec.count + 1 } } := fun hi =>
    bufferOk_write (decoderInv_bufferOk hs) hi b rfl rfl
  cases hf : s.dec.fsm with
  | seeking =>
    rw [rxByte_seeking hf] at h
    cases h
    exact seek_keeps_decoderInv hc b hs
  | readingHeader =>
    have hcap : 6 ≤ s.cfg.bufCap := configWf_bufCap hc
    obtain ⟨h1, h4⟩ := hheader hf
    have hlt : s.dec.count < s.cfg.bufCap := by omega
    rw [rxByte_header hf hlt] at h
    cases h
    split
    · exact headerDone_decoderInv b ‹_› (room hlt)
    · exact decoderInv_of_header hf (show 1 ≤ s.dec.count + 1 by omega) (show s.dec.count + 1 ≤ 4 by omega) (room hlt)
  | readingBody =>
    obtain ⟨h5, hlen, hcap⟩ := hbody hf
    have hlt : s.dec.count < s.cfg.bufCap := by omega
    rw [rxByte_body hf hlt] at h
    split at h
    · exact complete_decoderInv (room hlt) h
    · split at h <;> cases h
      · exact decoderInv_of_seeking rfl rfl (room hlt)
      · exact decoderInv_of_body hf (show 5 ≤ s.dec.count + 1 by omega)
          (show s.dec.count + 1 ≤ s.dec.len.toNat + 5 by omega) hcap (room hlt)

/-- 10 R21, R23: only a received byte and RESET write the decoder. -/
theorem exec_dec_cases {i : Instr} {t : State} (h : exec i s = .next t) :
    (∃ b now, i = .rxByte b now) ∨ i = .reset ∨ (t.cfg = s.cfg ∧ t.dec = s.dec) := by
  cases i with
  | rxByte b now => exact .inl ⟨b, now, rfl⟩
  | reset => exact .inr (.inl rfl)
  | startCycle now => cases h; refine .inr (.inr ?_); split <;> simp
  | tick now => cases h; refine .inr (.inr ?_); dsimp only; split <;> simp
  | setTarget arg now => cases h; refine .inr (.inr ?_); split <;> exact ⟨rfl, rfl⟩
  | _ => cases h; simp

end

theorem exec_keeps_decoderInv {i : Instr} {s t : State} (hc : configWf s.cfg = true) (hs : decoderInv s)
    (h : exec i s = .next t) : decoderInv t := by
  rcases exec_dec_cases h with ⟨b, now, rfl⟩ | rfl | ⟨hcfg, hdec⟩
  · exact rxByte_keeps_decoderInv hc hs h
  · obtain ⟨-, rfl⟩ := exec_reset_eq_next h
    exact decoderInv_resetOf s.resetCfg
  · simpa only [decoderInv, hcfg, hdec] using hs

/-- Settles O53: only a received byte and RESET write the decoder, and both leave it as `decoderInv` says. -/
theorem stepKeepsTheDecoder : Obligations.StepKeepsTheDecoder := fun _ _ hc hs h =>
  step_keeps (P := fun s => decoderInv s) (fun _ hs => hs) exec_keeps_decoderInv hc hs h

end Sys2Proof.Machine
end

section
/-! PROOFS. 10_state.md R36, R41 (f) to (h): what a TICK and a SET_TARGET do to the loop, that only TICK and RESET write its
tuning state (OnlyTickAndResetWriteTheGains), and that every step keeps the anti-windup bound and the adjusted range
(StepKeepsTheLoop) and the gains in their bounds (EventsKeepTheGainsInBounds). -/

namespace Sys2Proof.Machine

/-! ### What a TICK does to the loop (44 R230) -/

/-- 43 R215: what the toggle of a TICK makes of the loop; only an active loop is turned off. -/
inductive Loop.Toggled (c : Config) (now : Time) : Loop → Loop → Prop where
  | kept (l : Loop) : Toggled c now l l
  | on (room : Int) (l : Loop) : Toggled c now l (onFlip c room now { l with active := true })
  | off (room : Int) (l : Loop) (hactive : l.active = true) :
      Toggled c now l (onFlip c room now (disableEvent c { l with active := false }))

/-- 44 R235 to R239: the loop evaluated, its output projected. -/
def Loop.evaluated (c : Config) (cur : Int) (dtMs : Nat) (l : Loop) : Loop :=
  { evaluate c cur dtMs l with corrected := project c (evaluate c cur dtMs l) (evaluate c cur dtMs l).lastOutput }

/-- 44 R234, R240, R250: what the PID of a TICK makes of the loop; it evaluates an active loop only, and then adapts it, or
only records the time (the grace period), or neither (the fixed variant, or too early). -/
inductive Loop.Controlled (c : Config) (now : Time) : Loop → Loop → Prop where
  | neutral (l : Loop) : Controlled c now l { l with corrected := l.target }
  | evaluated (cur : Int) (dtMs : Nat) (l : Loop) (hactive : l.active = true) : Controlled c now l (l.evaluated c cur dtMs)
  | grace (cur : Int) (dtMs : Nat) (l : Loop) (hactive : l.active = true) :
      Controlled c now l { l.evaluated c cur dtMs with lastAdaptAt := now }
  | adapted (cur : Int) (dtMs elMs : Nat) (l : Loop) (hactive : l.active = true) :
      Controlled c now l (adaptGains c elMs { l.evaluated c cur dtMs with lastAdaptAt := now })

theorem gateDecision_inactive_ne_turnOff (c : Config) (delta : Int) : gateDecision c false delta ≠ .turnOff := by
  simp only [gateDecision, Bool.false_and]
  split <;> simp

/-- 43 R212: the gate turns off only what is active. -/
theorem active_of_gate_eq_turnOff {c : Config} {m : Mode} {active : Bool} {cur tgt : Int}
    (h : gate c m active cur tgt = .turnOff) : active = true := by
  cases active with
  | true => rfl
  | false =>
    cases m with
    | heat | cool => exact absurd h (gateDecision_inactive_ne_turnOff c _)
    | dry | fan | auto => cases h

section
variable {s t : State}

theorem toggle_toggled (m : Mode) (cur tgt : Int) (now : Time) :
    Loop.Toggled s.cfg now s.loop (toggle (gate s.cfg m s.loop.active cur tgt) now s).loop := by
  rcases toggle_cases (gate s.cfg m s.loop.active cur tgt) now s with ⟨-, e⟩ | ⟨-, -, e⟩ | ⟨-, -, e⟩ | ⟨hoff, -, e⟩ <;>
    rw [e]
  · exact .kept _
  · exact .kept _
  · exact .on _ _
  · exact .off _ _ (active_of_gate_eq_turnOff hoff)

theorem pidStep_controlled (cur : Int) (dtMs : Nat) (now : Time) (hactive : s.loop.active = true) :
    Loop.Controlled s.cfg now s.loop (pidStep cur dtMs now s).loop := by
  simp only [pidStep]
  split
  · rcases adapt_loop_cases now { s with loop := s.loop.evaluated s.cfg cur dtMs } with e | e | e
    · exact e ▸ .evaluated cur dtMs _ hactive
    · exact e ▸ .grace cur dtMs _ hactive
    · exact e ▸ .adapted cur dtMs _ _ hactive
  · exact .evaluated cur dtMs _ hactive

/-- 44 R230: the direction, then the toggle, then the PID. -/
theorem control_loop (dtMs : Nat) (now : Time) (s : State) :
    ∃ m l, Loop.Toggled s.cfg now (updateDirection s.cfg m s.loop) l ∧
      Loop.Controlled s.cfg now l (control dtMs now s).loop := by
  refine ⟨s.st.modeNow, _, toggle_toggled (s := { s with loop := updateDirection s.cfg s.st.modeNow s.loop })
    s.st.modeNow s.st.status.roomTemperature (updateDirection s.cfg s.st.modeNow s.loop).target now, ?_⟩
  simp only [control]
  generalize hu : toggle _ now _ = u
  have hcfg : u.cfg = s.cfg := by rw [← hu, toggle_cfg]
  rw [← hcfg]
  split
  case isTrue hruns =>
    have hactive : u.loop.active = true := by
      simp only [pidRuns, Bool.and_eq_true] at hruns
      exact hruns.1
    exact pidStep_controlled _ dtMs now hactive
  case isFalse => exact .neutral _

/-- 44 R230, R231: before any room temperature a TICK only records its time; after it, the loop runs. -/
theorem tick_loop_cases {now : Time} (h : exec (.tick now) s = .next t) :
    t.cfg = s.cfg ∧
    (t.loop = { s.loop with lastTickAt := now } ∨
      ∃ m l, Loop.Toggled s.cfg now (updateDirection s.cfg m { s.loop with lastTickAt := now }) l ∧
        Loop.Controlled s.cfg now l t.loop) := by
  cases h
  dsimp only
  split
  · exact ⟨control_cfg .., .inr (control_loop _ now { s with loop := { s.loop with lastTickAt := now } })⟩
  · exact ⟨rfl, .inl rfl⟩

/-- 44 R245: the target that the loop has already does nothing. -/
theorem setTarget_loop_cases {arg : BitVec 32} {now : Time} (h : exec (.setTarget arg now) s = .next t) :
    t.cfg = s.cfg ∧ (t.loop = s.loop ∨ ∃ x, t.loop = retarget s.cfg x s.loop) := by
  cases h
  split
  · exact ⟨rfl, .inl rfl⟩
  · exact ⟨rfl, .inr ⟨_, rfl⟩⟩

end

/-- Settles O51: every other operation leaves the loop alone, or gives it a new target (44 R245). -/
theorem onlyTickAndResetWriteTheGains : Obligations.OnlyTickAndResetWriteTheGains := by
  intro i s t hreset htick h
  rcases exec_loop_cases h with ⟨now, hi⟩ | ⟨arg, now, rfl⟩ | hi | ⟨-, hloop⟩
  · exact absurd hi (htick now)
  · obtain ⟨-, hloop | ⟨x, hloop⟩⟩ := setTarget_loop_cases h <;> rw [hloop] <;> simp [retarget, recomputeAdjusted]
  · exact absurd hi hreset
  · simp [hloop]

/-! ### The anti-windup bound and the adjusted range (10 R41 (f), (g), 44 R246) -/

/-- `loopInv`, by field. -/
structure Loop.Inv (c : Config) (l : Loop) : Prop where
  integralMax_nonneg : 0 ≤ l.integralMax
  neg_le_integral : -l.integralMax ≤ l.integral
  integral_le : l.integral ≤ l.integralMax
  range_eq : (l.adjustedMin, l.adjustedMax) = adjustedRange c l.heating l.target

theorem Loop.inv_iff {s : State} : s.loop.Inv s.cfg ↔ loopInv s :=
  ⟨fun ⟨h0, hlo, hhi, hr⟩ => ⟨h0, hlo, hhi, hr⟩, fun ⟨h0, hlo, hhi, hr⟩ => ⟨h0, hlo, hhi, hr⟩⟩

section
variable {c : Config} {l l' : Loop}

theorem recomputeAdjusted_inv (h0 : 0 ≤ l.integralMax) (hlo : -l.integralMax ≤ l.integral)
    (hhi : l.integral ≤ l.integralMax) : (recomputeAdjusted c l).Inv c := ⟨h0, hlo, hhi, rfl⟩

theorem updateDirection_inv (m : Mode) (h : l.Inv c) : (updateDirection c m l).Inv c := by
  rcases updateDirection_cases c m l with e | ⟨heating, e⟩ <;> rw [e]
  · exact h
  · exact recomputeAdjusted_inv h.integralMax_nonneg h.neg_le_integral h.integral_le

theorem retarget_inv (x : Int) (h : l.Inv c) : (retarget c x l).Inv c :=
  recomputeAdjusted_inv h.integralMax_nonneg (neg_nonpos.mpr h.integralMax_nonneg) h.integralMax_nonneg

/-- 44 R243: a restart clears the integral, so that it needs no bound on the one before. -/
theorem onFlip_inv (room : Int) (now : Time) (h0 : 0 ≤ l.integralMax)
    (hr : (l.adjustedMin, l.adjustedMax) = adjustedRange c l.heating l.target) : (onFlip c room now l).Inv c :=
  ⟨h0, neg_nonpos.mpr h0, h0, hr⟩

/-- 44 R244: a shrink of the bound ends at its floor, which is not negative. -/
theorem disableEvent_integralMax_nonneg (hc : configWf c = true) (h0 : 0 ≤ l.integralMax) :
    0 ≤ (disableEvent c l).integralMax := by
  simp only [disableEvent]
  split
  · exact (configWf_imax_nonneg hc).1.trans (le_max_right _ _)
  · exact h0

theorem disableEvent_range (c : Config) (l : Loop) :
    (disableEvent c l).adjustedMin = l.adjustedMin ∧ (disableEvent c l).adjustedMax = l.adjustedMax ∧
    (disableEvent c l).heating = l.heating ∧ (disableEvent c l).target = l.target := by
  simp only [disableEvent]
  split <;> exact ⟨rfl, rfl, rfl, rfl⟩

theorem Loop.Toggled.inv {now : Time} (hc : configWf c = true) (ht : Loop.Toggled c now l l') (h : l.Inv c) :
    l'.Inv c := by
  cases ht with
  | kept => exact h
  | on room => exact onFlip_inv room now h.integralMax_nonneg h.range_eq
  | off room =>
    obtain ⟨hmin, hmax, hheating, htarget⟩ := disableEvent_range c { l with active := false }
    refine onFlip_inv room now (disableEvent_integralMax_nonneg hc h.integralMax_nonneg) ?_
    rw [hmin, hmax, hheating, htarget]
    exact h.range_eq

/-- 44 R236: the integral is clamped between the bound and its negation. -/
theorem Loop.evaluated_inv (cur : Int) (dtMs : Nat) (h : l.Inv c) : (l.evaluated c cur dtMs).Inv c :=
  have hclamp := clamp_bounds (neg_le_self h.integralMax_nonneg) _
  { h with neg_le_integral := hclamp.1, integral_le := hclamp.2 }

theorem Loop.Controlled.inv {now : Time} (hp : Loop.Controlled c now l l') (h : l.Inv c) : l'.Inv c := by
  cases hp with
  | neutral => exact { h with }
  | evaluated cur dtMs => exact Loop.evaluated_inv cur dtMs h
  | grace cur dtMs => exact { Loop.evaluated_inv cur dtMs h with }
  | adapted cur dtMs => exact { Loop.evaluated_inv cur dtMs h with }

/-- 10 R40: the loop after RESET. -/
theorem loopReset_inv (hc : configWf c = true) : (loopReset c).Inv c :=
  have h0 := (configWf_imax_nonneg hc).2
  ⟨h0, neg_nonpos.mpr h0, h0, rfl⟩

end

theorem exec_keeps_loopInv {i : Instr} {s t : State} (hc : configWf s.cfg = true) (hs : loopInv s)
    (h : exec i s = .next t) : loopInv t := by
  rw [← Loop.inv_iff] at hs ⊢
  rcases exec_loop_cases h with ⟨now, rfl⟩ | ⟨arg, now, rfl⟩ | rfl | ⟨hcfg, hloop⟩
  · obtain ⟨hcfg, hloop | ⟨m, l, htoggled, hcontrolled⟩⟩ := tick_loop_cases h <;> rw [hcfg]
    · rw [hloop]; exact { hs with }
    · exact hcontrolled.inv (htoggled.inv hc (updateDirection_inv m { hs with }))
  · obtain ⟨hcfg, hloop | ⟨x, hloop⟩⟩ := setTarget_loop_cases h <;> rw [hcfg, hloop]
    · exact hs
    · exact retarget_inv x hs
  · obtain ⟨hwf, rfl⟩ := exec_reset_eq_next h
    exact loopReset_inv hwf
  · rwa [hcfg, hloop]

/-- Settles O55: only TICK, SET_TARGET and RESET write the loop, and each leaves it as `loopInv` says. -/
theorem stepKeepsTheLoop : Obligations.StepKeepsTheLoop := fun _ _ hc hs h =>
  step_keeps (P := fun s => loopInv s) (fun _ hs => hs) exec_keeps_loopInv hc hs h

/-! ### The gains (10 R41 (h)) -/

/-- The gains of a loop inside their bounds, with `kp` bounded above by `kpHi`. -/
structure Loop.GainsOk (c : Config) (kpHi : Int) (l : Loop) : Prop where
  kpMin_le : c.kpMin ≤ l.kp
  kp_le : l.kp ≤ kpHi
  kiMin_le : c.kiMin ≤ l.ki
  ki_le : l.ki ≤ c.kiMax
  kdMin_le : c.kdMin ≤ l.kd
  kd_le : l.kd ≤ c.kdMax

theorem Loop.gainsOk_iff {s : State} : s.loop.GainsOk s.cfg s.cfg.kpMax ↔ gainsInBounds s :=
  ⟨fun ⟨h1, h2, h3, h4, h5, h6⟩ => ⟨⟨h1, h2⟩, ⟨h3, h4⟩, ⟨h5, h6⟩⟩,
    fun ⟨⟨h1, h2⟩, ⟨h3, h4⟩, ⟨h5, h6⟩⟩ => ⟨h1, h2, h3, h4, h5, h6⟩⟩

section
variable {c : Config} {l l' : Loop} {kpHi : Int}

theorem updateDirection_gainsOk (m : Mode) (h : l.GainsOk c kpHi) : (updateDirection c m l).GainsOk c kpHi := by
  rcases updateDirection_cases c m l with e | ⟨heating, e⟩ <;> rw [e]
  · exact h
  · exact { h with }

theorem updateDirection_active (c : Config) (m : Mode) (l : Loop) : (updateDirection c m l).active = l.active := by
  rcases updateDirection_cases c m l with e | ⟨heating, e⟩ <;> rw [e]
  rfl

/-- 44 R244: a factor of at most 1 takes a gain no further than 0 or than it was, whichever is greater. -/
theorem fxMul_shrink_le (hc : configWf c = true) (g : Int) : fxMul c g c.kpShrink ≤ max g 0 := by
  obtain ⟨hscale, hpos, hle⟩ : 0 < scaleInt c ∧ 0 < c.kpShrink ∧ c.kpShrink ≤ scaleInt c := by
    simp only [configWf, sizesWf, typesWf, Bool.and_eq_true, decide_eq_true_eq] at hc
    refine ⟨?_, by tauto, by tauto⟩
    simp only [scaleInt, Int.ofNat_eq_natCast]
    omega
  have hquot : floorDiv (g * c.kpShrink) (scaleInt c) ≤ max g 0 := by
    rw [floorDiv, Int.fdiv_eq_ediv_of_nonneg _ hscale.le]
    refine Int.ediv_le_of_le_mul hscale ?_
    calc g * c.kpShrink ≤ max g 0 * c.kpShrink := by gcongr; exact le_max_left g 0
      _ ≤ max g 0 * scaleInt c := by gcongr
  have hmin := fxMin_neg c
  simp only [fxMul, sat, clamp]
  omega

/-- 44 R244: a shrink keeps `kp` at or above its floor, which is `KP_MIN`, and can raise it towards 0 only. -/
theorem disableEvent_gainsOk (hc : configWf c = true) (h : l.GainsOk c c.kpMax) :
    (disableEvent c l).GainsOk c (max c.kpMax 0) := by
  have hkp : c.kpMin ≤ c.kpMax := (configWf_ranges hc).1
  have hle : l.kp ≤ max c.kpMax 0 := h.kp_le.trans (le_max_left _ _)
  simp only [disableEvent]
  split
  · have hmul := fxMul_shrink_le hc l.kp
    exact { h with
      kpMin_le := le_max_right _ _
      kp_le := max_le (hmul.trans (max_le hle (le_max_right _ _))) (hkp.trans (le_max_left _ _)) }
  · exact { h with kp_le := hle }

/-- 44 R254, R255: the step of one gain leaves it inside its bounds, wherever it was. -/
theorem adaptOne_gain_bounds (lastError : Int) (elMs : Nat) (g r lr sm : Int) {gmin gmax : Int} (hle : gmin ≤ gmax) :
    gmin ≤ (adaptOne c lastError elMs g r lr sm gmin gmax).gain ∧
    (adaptOne c lastError elMs g r lr sm gmin gmax).gain ≤ gmax := by
  simp only [adaptOne]
  split
  case isTrue => exact midOf_bounds hle
  case isFalse hin =>
    split
    · exact clamp_bounds hle _
    · show gmin ≤ g ∧ g ≤ gmax
      omega

theorem adaptGains_gainsOk (hc : configWf c = true) (elMs : Nat) (l : Loop) : (adaptGains c elMs l).GainsOk c c.kpMax := by
  obtain ⟨hp, hi, hd, -⟩ := configWf_ranges hc
  obtain ⟨hp1, hp2⟩ := adaptOne_gain_bounds (c := c) l.lastError elMs l.kp l.lastError c.lrKp l.sKp hp
  obtain ⟨hi1, hi2⟩ := adaptOne_gain_bounds (c := c) l.lastError elMs l.ki l.integral c.lrKi l.sKi hi
  obtain ⟨hd1, hd2⟩ := adaptOne_gain_bounds (c := c) l.lastError elMs l.kd l.lastDerivative c.lrKd l.sKd hd
  exact ⟨hp1, hp2, hi1, hi2, hd1, hd2⟩

/-- 43 R215: only a turn-off writes a gain. -/
theorem Loop.Toggled.gainsOk {now : Time} (hc : configWf c = true) (ht : Loop.Toggled c now l l')
    (h : l.GainsOk c c.kpMax) :
    l'.GainsOk c c.kpMax ∨ (l.active = true ∧ l'.active = false ∧ l'.GainsOk c (max c.kpMax 0)) := by
  cases ht with
  | kept => exact .inl h
  | on room => exact .inl { h with }
  | off room _ hactive =>
    have hshrunk := disableEvent_gainsOk (l := { l with active := false }) hc { h with }
    have hoff : (disableEvent c { l with active := false }).active = false := by
      simp only [disableEvent]
      split <;> rfl
    exact .inr ⟨hactive, hoff, { hshrunk with }⟩

theorem Loop.Controlled.gainsOk {now : Time} (hc : configWf c = true) (hp : Loop.Controlled c now l l')
    (h : l.GainsOk c c.kpMax) : l'.GainsOk c c.kpMax := by
  cases hp with
  | neutral => exact { h with }
  | evaluated => exact { h with }
  | grace => exact { h with }
  | adapted => exact adaptGains_gainsOk hc _ _

/-- 44 R234: after a turn-off the PID does not evaluate in this TICK. -/
theorem Loop.Controlled.eq_of_inactive {now : Time} (hp : Loop.Controlled c now l l') (hoff : l.active = false) :
    l' = { l with corrected := l.target } := by
  cases hp with
  | neutral => rfl
  | evaluated _ _ _ hactive | grace _ _ _ hactive | adapted _ _ _ _ hactive => simp [hactive] at hoff

end

section
variable {s t : State}

/-- 44 R230: a TICK keeps the gains in their bounds, but for `kp` when it turns the loop off (log 19). -/
theorem tick_gainsOk {now : Time} (hc : configWf s.cfg = true) (hs : s.loop.GainsOk s.cfg s.cfg.kpMax)
    (h : exec (.tick now) s = .next t) :
    t.loop.GainsOk s.cfg s.cfg.kpMax ∨
    (s.loop.active = true ∧ t.loop.active = false ∧ t.loop.GainsOk s.cfg (max s.cfg.kpMax 0)) := by
  obtain ⟨-, hloop | ⟨m, l, htoggled, hcontrolled⟩⟩ := tick_loop_cases h
  · rw [hloop]; exact .inl { hs with }
  · rcases htoggled.gainsOk hc (updateDirection_gainsOk m { hs with }) with hl | ⟨hactive, hoff, hl⟩
    · exact .inl (hcontrolled.gainsOk hc hl)
    · rw [updateDirection_active] at hactive
      rw [hcontrolled.eq_of_inactive hoff]
      exact .inr ⟨hactive, hoff, { hl with }⟩

/-- 10 R41 (h): so does every other operation but RESET, without the exception. -/
theorem exec_gainsOk {i : Instr} (hc : configWf s.cfg = true) (hreset : i ≠ .reset)
    (hs : s.loop.GainsOk s.cfg s.cfg.kpMax) (h : exec i s = .next t) :
    t.cfg = s.cfg ∧ (t.loop.GainsOk s.cfg s.cfg.kpMax ∨
      (∃ now, i = .tick now ∧ s.loop.active = true ∧ t.loop.active = false) ∧
        t.loop.GainsOk s.cfg (max s.cfg.kpMax 0)) := by
  rcases exec_loop_cases h with ⟨now, rfl⟩ | ⟨arg, now, rfl⟩ | hi | ⟨hcfg, hloop⟩
  · refine ⟨(tick_loop_cases h).1, ?_⟩
    rcases tick_gainsOk hc hs h with ht | ⟨hactive, hoff, ht⟩
    · exact .inl ht
    · exact .inr ⟨⟨now, rfl, hactive, hoff⟩, ht⟩
  · obtain ⟨hcfg, hloop | ⟨x, hloop⟩⟩ := setTarget_loop_cases h <;> rw [hloop]
    · exact ⟨hcfg, .inl hs⟩
    · exact ⟨hcfg, .inl { hs with }⟩
  · exact absurd hi hreset
  · rw [hloop]; exact ⟨hcfg, .inl hs⟩

end

/-- Settles O57: after a turn-off `kp` is at most the greater of `KP_MAX` and 0, in every other case at most `KP_MAX`. -/
theorem eventsKeepTheGainsInBounds : Obligations.EventsKeepTheGainsInBounds := by
  intro i s t hc hreset hs h
  rw [← Loop.gainsOk_iff] at hs
  obtain ⟨hcfg, ht | ⟨hoff, ht⟩⟩ := exec_gainsOk hc hreset hs h
  all_goals rw [← Loop.gainsOk_iff, hcfg]
  · exact ⟨fun _ => ht, ⟨ht.kiMin_le, ht.ki_le⟩, ⟨ht.kdMin_le, ht.kd_le⟩, ht.kpMin_le, .inl ht.kp_le⟩
  · exact ⟨fun hmax => max_eq_left hmax ▸ ht, ⟨ht.kiMin_le, ht.ki_le⟩, ⟨ht.kdMin_le, ht.kd_le⟩, ht.kpMin_le, .inr hoff⟩

end Sys2Proof.Machine
end

section
/-! PROOFS. 10_state.md R30, R41 (d), (e): what every operation does to the Store's latches and leaves to the scheduler, and that
the latches are one-way (LatchesAreOneWay). -/

namespace Sys2Proof.Machine

/-! ### What an operation does beside the scheduler -/

/-- `u` has the configuration, the request table and the timers of `s`, and every latch that `s` has set. -/
structure State.Quiet (s u : State) : Prop where
  cfg : u.cfg = s.cfg
  sch : u.sch = s.sch
  timers : u.timers = s.timers
  extTempMode : s.st.extTempMode = true → u.st.extTempMode = true
  haveRoomTemp : s.st.haveRoomTemp = true → u.st.haveRoomTemp = true
  firstRun : s.st.firstRun = false → u.st.firstRun = false

section
variable {s t u v : State}

theorem State.Quiet.refl (s : State) : s.Quiet s := ⟨rfl, rfl, rfl, id, id, id⟩

theorem State.Quiet.after (h' : u.Quiet v) (h : s.Quiet u) : s.Quiet v :=
  ⟨h'.cfg.trans h.cfg, h'.sch.trans h.sch, h'.timers.trans h.timers, h'.extTempMode ∘ h.extTempMode,
    h'.haveRoomTemp ∘ h.haveRoomTemp, h'.firstRun ∘ h.firstRun⟩

theorem notifySettings_quiet (s : State) (changed : Bool) : s.Quiet (s.notifySettings changed) := by
  unfold State.notifySettings
  split <;> exact ⟨rfl, rfl, rfl, id, id, id⟩

theorem notifyStatus_quiet (s : State) (old : Status) : s.Quiet (s.notifyStatus old) := by
  unfold State.notifyStatus
  split <;> exact ⟨rfl, rfl, rfl, id, id, id⟩

theorem checkSym_quiet (s : State) (field n : Nat) (sym : Byte) : s.Quiet (s.checkSym field n sym) := by
  unfold State.checkSym
  split <;> exact ⟨rfl, rfl, rfl, id, id, id⟩

theorem setWant_quiet (s : State) (want : Wanted) (field : Nat) (value : Int) : s.Quiet (s.setWant want field value) :=
  ⟨rfl, rfl, rfl, id, id, id⟩

/-! #### The frame effects (41) -/

theorem applyAck_quiet (s : State) : s.Quiet (applyAck s) :=
  (notifySettings_quiet _ _).after ⟨rfl, rfl, rfl, id, id, id⟩

/-- 41 R146: the first settings frame clears `first_run`. -/
theorem applySettings_quiet (data : List Byte) (s : State) : s.Quiet (applySettings data s) := by
  simp only [applySettings]
  split
  · exact .refl s
  · exact (notifySettings_quiet _ _).after ⟨rfl, rfl, rfl, id, id, fun _ => rfl⟩

/-- 41 R148, R149: a room temperature frame sets `have_room_temp`, and `ext_temp_mode` where it takes the signed path. -/
theorem applyRoomtemp_quiet (data : List Byte) (s : State) : s.Quiet (applyRoomtemp data s) := by
  unfold applyRoomtemp
  split
  · exact .refl s
  · refine (notifyStatus_quiet _ _).after ⟨rfl, rfl, rfl, fun hext => ?_, fun _ => rfl, id⟩
    simp [storeRoomtemp, hext]

theorem applyTimers_quiet (data : List Byte) (s : State) : s.Quiet (applyTimers data s) := by
  unfold applyTimers
  split
  · exact .refl s
  · constructor <;> simp

theorem applyStatus_quiet (data : List Byte) (s : State) : s.Quiet (applyStatus data s) := by
  unfold applyStatus
  split
  · exact .refl s
  · exact (notifyStatus_quiet _ _).after ⟨rfl, rfl, rfl, id, id, id⟩

theorem applyFunc_quiet (base : Nat) (data : List Byte) (s : State) : s.Quiet (applyFunc base data s) := by
  unfold applyFunc
  split
  · exact .refl s
  · constructor <;> simp

/-! #### The gate and the loop (43, 44) -/

theorem toggle_quiet (g : GateAnswer) (now : Time) (s : State) : s.Quiet (toggle g now s) := by
  rcases toggle_cases g now s with ⟨-, e⟩ | ⟨-, -, e⟩ | ⟨-, -, e⟩ | ⟨-, -, e⟩ <;> rw [e] <;>
    exact ⟨rfl, rfl, rfl, id, id, id⟩

theorem pidStep_quiet (cur : Int) (dtMs : Nat) (now : Time) (s : State) : s.Quiet (pidStep cur dtMs now s) := by
  constructor <;> simp

theorem pidNeutral_quiet (s : State) : s.Quiet (pidNeutral s) := ⟨rfl, rfl, rfl, id, id, id⟩

theorem writeBack_quiet (s : State) : s.Quiet (writeBack s) := ⟨rfl, rfl, rfl, id, id, id⟩

theorem control_quiet (dtMs : Nat) (now : Time) (s : State) : s.Quiet (control dtMs now s) := by
  simp only [control]
  generalize hu : toggle _ now _ = u
  have hquiet : s.Quiet u := hu ▸ (toggle_quiet _ now _).after ⟨rfl, rfl, rfl, id, id, id⟩
  split
  · exact (writeBack_quiet _).after ((pidStep_quiet _ dtMs now u).after hquiet)
  · exact (writeBack_quiet _).after ((pidNeutral_quiet u).after hquiet)

end

/-! ### What an operation does to the scheduler -/

/-- What is left to the scheduler after the rest of an operation: nothing, a response (42 R188), a cycle that begins with no
request in flight (R190), or a timer that has gone off (R186, R187). -/
inductive State.Scheduled (u : State) : State → Prop where
  | idle : Scheduled u u
  | response (code : Byte) (now : Time) : Scheduled u (processResponse code now u)
  | cycle (now : Time) (hidle : u.anyAwaiting = false) : Scheduled u (sendNextAfter 0x00#8 now u)
  | timeout (code : Byte) (now : Time) : Scheduled u (timeoutEffect code now (u.dropTimer code))

section
variable {s t : State}

theorem scheduled_of_quiet (h : s.Quiet t) : ∃ u, s.Quiet u ∧ u.Scheduled t := ⟨t, h, .idle⟩

/-- 41, 40 R126: a frame does its effect and then, for a 0x62 row, notifies the scheduler. -/
theorem frame_scheduled {ty : FrameType} {f : Frame} {now : Time} (h : exec (ty.instr f now) s = .next t) :
    ∃ u, s.Quiet u ∧ u.Scheduled t := by
  cases ty <;> cases h
  case ack => exact scheduled_of_quiet (applyAck_quiet s)
  case settings => exact ⟨_, applySettings_quiet f.data s, .response ..⟩
  case roomtemp => exact ⟨_, applyRoomtemp_quiet f.data s, .response ..⟩
  case timers => exact ⟨_, applyTimers_quiet f.data s, .response ..⟩
  case status => exact ⟨_, applyStatus_quiet f.data s, .response ..⟩
  case standby => exact ⟨_, .refl s, .response ..⟩
  case funcLo => exact ⟨_, applyFunc_quiet _ f.data s, .response ..⟩
  case funcHi => exact ⟨_, applyFunc_quiet _ f.data s, .response ..⟩
  case connA => exact scheduled_of_quiet ⟨rfl, rfl, rfl, id, id, id⟩
  case connB => exact scheduled_of_quiet ⟨rfl, rfl, rfl, id, id, id⟩

theorem dispatch_scheduled {now : Time} (h : dispatch now s = .next t) : ∃ u, s.Quiet u ∧ u.Scheduled t := by
  rcases dispatch_cases now s with ⟨ty, e⟩ | ⟨sub, e⟩ | e <;> rw [e] at h
  · exact frame_scheduled h
  · cases h; exact ⟨s, .refl s, .response ..⟩
  · cases h; exact scheduled_of_quiet (.refl s)

theorem complete_scheduled {now : Time} (h : complete now s = .next t) : ∃ u, s.Quiet u ∧ u.Scheduled t := by
  unfold complete at h
  split at h
  · obtain ⟨u, hu, hsched⟩ := dispatch_scheduled h
    exact ⟨u, hu.after ⟨rfl, rfl, rfl, id, id, id⟩, hsched⟩
  · cases h; exact scheduled_of_quiet ⟨rfl, rfl, rfl, id, id, id⟩

/-- 20 R60: a byte of a frame that is received without a fault had its place in the buffer. -/
theorem count_lt_of_rxByte {b : Byte} {now : Time} (hf : s.dec.fsm ≠ .seeking) (h : exec (.rxByte b now) s = .next t) :
    s.dec.count < s.cfg.bufCap := by
  by_contra hb
  rw [rxByte_fault hf (by omega)] at h
  cases h

/-- 40 R110 to R118: a received byte touches the scheduler only through the frame that it completes. -/
theorem rxByte_scheduled {b : Byte} {now : Time} (h : exec (.rxByte b now) s = .next t) :
    ∃ u, s.Quiet u ∧ u.Scheduled t := by
  cases hf : s.dec.fsm with
  | seeking =>
    rw [rxByte_seeking hf] at h
    cases h
    refine scheduled_of_quiet ?_
    unfold seek
    split <;> exact ⟨rfl, rfl, rfl, id, id, id⟩
  | readingHeader =>
    rw [rxByte_header hf (count_lt_of_rxByte (by simp [hf]) h)] at h
    cases h
    refine scheduled_of_quiet ?_
    unfold headerDone oversize
    split
    · split <;> exact ⟨rfl, rfl, rfl, id, id, id⟩
    · exact ⟨rfl, rfl, rfl, id, id, id⟩
  | readingBody =>
    rw [rxByte_body hf (count_lt_of_rxByte (by simp [hf]) h)] at h
    split at h
    · obtain ⟨u, hu, hsched⟩ := complete_scheduled h
      exact ⟨u, hu.after ⟨rfl, rfl, rfl, id, id, id⟩, hsched⟩
    · split at h <;> cases h <;> exact scheduled_of_quiet ⟨rfl, rfl, rfl, id, id, id⟩

/-- Every operation but RESET is quiet up to what it leaves to the scheduler. -/
theorem exec_scheduled {i : Instr} (hreset : i ≠ .reset) (h : exec i s = .next t) : ∃ u, s.Quiet u ∧ u.Scheduled t := by
  cases i with
  | reset => exact absurd rfl hreset
  | fAck f now => exact frame_scheduled (ty := .ack) (f := f) (now := now) h
  | fSettings f now => exact frame_scheduled (ty := .settings) h
  | fRoomtemp f now => exact frame_scheduled (ty := .roomtemp) h
  | fTimers f now => exact frame_scheduled (ty := .timers) h
  | fStatus f now => exact frame_scheduled (ty := .status) h
  | fStandby f now => exact frame_scheduled (ty := .standby) (f := f) h
  | fFuncLo f now => exact frame_scheduled (ty := .funcLo) h
  | fFuncHi f now => exact frame_scheduled (ty := .funcHi) h
  | fConnA f now => exact frame_scheduled (ty := .connA) (f := f) (now := now) h
  | fConnB f now => exact frame_scheduled (ty := .connB) (f := f) (now := now) h
  | rxByte b now => exact rxByte_scheduled h
  | startCycle now =>
    cases h
    refine ⟨s, .refl s, ?_⟩
    split
    case isTrue => exact .idle
    case isFalse hidle => exact .cycle now (by simpa using hidle)
  | timeout code now => cases h; exact ⟨s, .refl s, .timeout code now⟩
  | tick now =>
    cases h
    refine scheduled_of_quiet ?_
    dsimp only
    split
    · exact (control_quiet _ now _).after ⟨rfl, rfl, rfl, id, id, id⟩
    · exact ⟨rfl, rfl, rfl, id, id, id⟩
  | setTarget arg now =>
    cases h
    refine scheduled_of_quiet ?_
    split <;> exact ⟨rfl, rfl, rfl, id, id, id⟩
  | setPower sym now | setMode sym now | setFan sym now | setVane sym now | setWidevane sym now =>
    cases h
    exact scheduled_of_quiet ((setWant_quiet _ _ _ _).after (checkSym_quiet s _ _ sym))
  | setTemperature arg now => cases h; exact scheduled_of_quiet (setWant_quiet s _ _ _)
  | linkDown now => cases h; exact scheduled_of_quiet ⟨rfl, rfl, rfl, id, id, id⟩
  | nop now | reservedD now | reservedE now | reservedF now => cases h; exact scheduled_of_quiet (.refl s)

end

/-! ### The one-way latches (10 R41 (d), (e)) -/

/-- `t` has every latch that `s` has set: those of the Store, and `disabled` of each request. -/
structure State.LatchesKept (s t : State) : Prop where
  extTempMode : s.st.extTempMode = true → t.st.extTempMode = true
  haveRoomTemp : s.st.haveRoomTemp = true → t.st.haveRoomTemp = true
  firstRun : s.st.firstRun = false → t.st.firstRun = false
  disabled : ∀ {k : Nat} {r : ReqState}, s.sch[k]? = some r → r.disabled = true →
    ∃ r', t.sch[k]? = some r' ∧ r'.disabled = true

section
variable {s t u : State}

theorem State.Quiet.latchesKept (h : s.Quiet u) : s.LatchesKept u :=
  ⟨h.extTempMode, h.haveRoomTemp, h.firstRun, fun {k r} hr hd => ⟨r, by rwa [h.sch], hd⟩⟩

theorem State.LatchesKept.trans (h : s.LatchesKept u) (h' : u.LatchesKept t) : s.LatchesKept t where
  extTempMode := h'.extTempMode ∘ h.extTempMode
  haveRoomTemp := h'.haveRoomTemp ∘ h.haveRoomTemp
  firstRun := h'.firstRun ∘ h.firstRun
  disabled hr hd :=
    have ⟨_, hr', hd'⟩ := h.disabled hr hd
    h'.disabled hr' hd'

/-- An update of one request that does not clear `disabled`, where the flags of the Store stay. -/
theorem latchesKept_of_modify {i : Nat} {f : ReqState → ReqState} (hf : ∀ r, r.disabled = true → (f r).disabled = true)
    (hsch : t.sch = s.sch.modify i f) (hext : t.st.extTempMode = s.st.extTempMode)
    (hroom : t.st.haveRoomTemp = s.st.haveRoomTemp) (hfirst : t.st.firstRun = s.st.firstRun) : s.LatchesKept t where
  extTempMode := by rw [hext]; exact id
  haveRoomTemp := by rw [hroom]; exact id
  firstRun := by rw [hfirst]; exact id
  disabled {k r} hr hd := by
    refine ⟨if i = k then f r else r, by simp [hsch, List.getElem?_modify, hr], ?_⟩
    split
    · exact hf r hd
    · exact hd

theorem sendNextAfter_latchesKept (prev : Byte) (now : Time) (s : State) : s.LatchesKept (sendNextAfter prev now s) := by
  rcases sendNextAfter_cases prev now s with ⟨i, q, -, -, e⟩ | ⟨-, e⟩ <;> rw [e]
  · exact latchesKept_of_modify (f := ReqState.sent now) (fun _ hd => hd) rfl rfl rfl rfl
  · exact State.Quiet.latchesKept ⟨rfl, rfl, rfl, id, id, id⟩

theorem markResponseSeen_latchesKept (i : Nat) (code : Byte) (s : State) : s.LatchesKept (markResponseSeen i code s) := by
  obtain ⟨-, hfirst, hext, hroom⟩ := markResponseSeen_flags i code s
  exact latchesKept_of_modify (f := ReqState.answered) (fun _ hd => hd) rfl hext hroom hfirst

theorem processResponse_latchesKept (code : Byte) (now : Time) (s : State) :
    s.LatchesKept (processResponse code now s) := by
  rcases processResponse_cases code now s with ⟨-, e⟩ | ⟨i, -, -, e⟩ | ⟨i, -, -, e⟩ <;> rw [e]
  · exact (State.Quiet.refl s).latchesKept
  · exact (markResponseSeen_latchesKept i code s).trans (sendNextAfter_latchesKept code now _)
  · exact markResponseSeen_latchesKept i code s

theorem timeoutEffect_latchesKept (code : Byte) (now : Time) (s : State) : s.LatchesKept (timeoutEffect code now s) := by
  rcases timeoutEffect_cases code now s with ⟨-, e⟩ | ⟨i, q, -, -, -, e⟩ <;> rw [e]
  · exact (State.Quiet.refl s).latchesKept
  · refine State.LatchesKept.trans ?_ (sendNextAfter_latchesKept code now _)
    exact latchesKept_of_modify (f := ReqState.timedOut q.maxFailures) (fun r hd => by simp [ReqState.timedOut, hd])
      rfl rfl rfl rfl

theorem State.Scheduled.latchesKept (h : u.Scheduled t) : u.LatchesKept t := by
  cases h with
  | idle => exact (State.Quiet.refl _).latchesKept
  | response code now => exact processResponse_latchesKept code now u
  | cycle now => exact sendNextAfter_latchesKept _ now u
  | timeout code now =>
    have hdrop : u.LatchesKept (u.dropTimer code) := ⟨id, id, id, fun {_ r} hr hd => ⟨r, hr, hd⟩⟩
    exact hdrop.trans (timeoutEffect_latchesKept code now _)

end

/-- Settles O52: neither what an operation does beside the scheduler nor the scheduler clears a latch. -/
theorem latchesAreOneWay : Obligations.LatchesAreOneWay := by
  intro i s t hreset h
  obtain ⟨u, hquiet, hsched⟩ := exec_scheduled hreset h
  have hkept := hquiet.latchesKept.trans hsched.latchesKept
  exact ⟨hkept.extTempMode, hkept.haveRoomTemp, hkept.firstRun, fun _ _ => hkept.disabled⟩

end Sys2Proof.Machine
end

section
/-! PROOFS. 10_state.md R40, R41 (c), 42_request_scheduler.md: that every step keeps the invariant of the request table
(StepKeepsTheRequests), and that all the invariants hold right after a RESET (ResetStateIsSafe). -/

namespace Sys2Proof.Machine

/-! ### The request table's invariant (10 R41 (c)) -/

/-- The invariant of the request table, by index, with at most `n` requests in flight. -/
structure State.RequestsOk (n : Nat) (s : State) : Prop where
  length_eq : s.sch.length = s.cfg.req.length
  inFlight_le : s.sch.countP (·.awaiting) ≤ n
  entryOk : ∀ {i : Nat} {q : ReqCfg} {r : ReqState}, s.cfg.req[i]? = some q → s.sch[i]? = some r →
    requestOk s.timers q r

theorem State.requestsOk_one_iff {s : State} : s.RequestsOk 1 ↔ requestInv s := by
  constructor
  · rintro ⟨hlen, hcount, hentry⟩
    refine ⟨hlen, hcount, fun p hp => ?_⟩
    obtain ⟨i, hi⟩ := List.mem_iff_getElem?.mp hp
    obtain ⟨hq, hr⟩ := List.getElem?_zip_eq_some.mp hi
    exact hentry hq hr
  · rintro ⟨hlen, hcount, hentry⟩
    refine ⟨hlen, hcount, fun {i q r} hq hr => hentry (q, r) ?_⟩
    exact List.mem_iff_getElem?.mpr ⟨i, List.getElem?_zip_eq_some.mpr ⟨hq, hr⟩⟩

/-- One entry changed changes the count by that entry. -/
theorem countP_modify_add {α : Type} (p : α → Bool) (f : α → α) {xs : List α} {i : Nat} {a : α} (h : xs[i]? = some a) :
    (xs.modify i f).countP p + (p a).toNat = xs.countP p + (p (f a)).toNat := by
  induction xs generalizing i with
  | nil => simp at h
  | cons x xs ih =>
    cases i with
    | zero =>
      obtain rfl : x = a := by simpa using h
      cases hx : p x <;> cases hfx : p (f x) <;> simp [hx, hfx]
    | succ i =>
      have := ih (i := i) (by simpa using h)
      simp only [List.modify_succ_cons, List.countP_cons]
      omega

section
variable {s t : State} {n : Nat}

/-- The same table under other timers, where those of the requests in flight are still pending. -/
theorem State.RequestsOk.of_timers (h : s.RequestsOk n) (hcfg : t.cfg = s.cfg) (hsch : t.sch = s.sch)
    (htimers : ∀ {i : Nat} {q : ReqCfg} {r : ReqState}, s.cfg.req[i]? = some q → s.sch[i]? = some r → r.awaiting = true →
      t.timers.any (fun x => decide (x.code = q.code)) = true) : t.RequestsOk n where
  length_eq := by rw [hsch, hcfg]; exact h.length_eq
  inFlight_le := by rw [hsch]; exact h.inFlight_le
  entryOk {i q r} hq hr := by
    rw [hcfg] at hq
    rw [hsch] at hr
    obtain ⟨hle, hlt, hawaiting⟩ := h.entryOk hq hr
    exact ⟨hle, hlt, fun ha => ⟨(hawaiting ha).1, htimers hq hr ha⟩⟩

theorem State.RequestsOk.congr (h : s.RequestsOk n) (hcfg : t.cfg = s.cfg) (hsch : t.sch = s.sch)
    (htimers : t.timers = s.timers) : t.RequestsOk n :=
  h.of_timers hcfg hsch fun hq hr ha => by
    obtain ⟨-, -, hawaiting⟩ := h.entryOk hq hr
    rw [htimers]
    exact (hawaiting ha).2

/-- With no request in flight the timers do not matter. -/
theorem State.RequestsOk.of_idle (h : s.RequestsOk 0) (hcfg : t.cfg = s.cfg) (hsch : t.sch = s.sch) : t.RequestsOk 0 :=
  h.of_timers hcfg hsch fun _ hr ha => by
    have hnone := List.countP_eq_zero.mp (Nat.le_zero.mp h.inFlight_le)
    exact absurd ha (hnone _ (List.mem_of_getElem? hr))

/-- An update of one entry that leaves it in order, with the count it leaves. -/
theorem State.RequestsOk.updReq {m i : Nat} {f : ReqState → ReqState} {q : ReqCfg} {r : ReqState} (h : s.RequestsOk n)
    (hq : s.cfg.req[i]? = some q) (hr : s.sch[i]? = some r) (hf : requestOk s.timers q (f r))
    (hm : n + (f r).awaiting.toNat ≤ m + r.awaiting.toNat) : (s.updReq i f).RequestsOk m where
  length_eq := by simpa using h.length_eq
  inFlight_le := by
    have hcount := countP_modify_add (·.awaiting) f hr
    have hn := h.inFlight_le
    rw [State.updReq_sch]
    omega
  entryOk {j q' r'} hq' hr' := by
    rw [State.updReq_sch, List.getElem?_modify] at hr'
    by_cases hij : i = j
    · subst hij
      obtain rfl : q = q' := Option.some.inj (hq.symm.trans hq')
      obtain rfl : f r = r' := by simpa [hr] using hr'
      exact hf
    · exact h.entryOk hq' (by simpa [hij] using hr')

/-! #### The procedures of the scheduler -/

theorem entry_of_findReq {code : Byte} {i : Nat} (h : s.RequestsOk n) (hi : findReq s.cfg code = some i) :
    ∃ q r, s.cfg.req[i]? = some q ∧ q.code = code ∧ s.sch[i]? = some r ∧ s.awaitingAt i = r.awaiting := by
  obtain ⟨q, hq, hcode⟩ := findReq_some hi
  have hlt : i < s.sch.length := h.length_eq ▸ (List.getElem?_eq_some_iff.mp hq).1
  have hr : s.sch[i]? = some s.sch[i] := List.getElem?_eq_getElem hlt
  exact ⟨q, s.sch[i], hq, hcode, hr, by simp [State.awaitingAt, hr]⟩

/-- 42 R182, R184: with none in flight, the request that is sent is the only one, is not disabled, and has its timer armed. -/
theorem sendReq_requestsOk {i : Nat} {q : ReqCfg} {now : Time} (h : s.RequestsOk 0) (hq : s.cfg.req[i]? = some q)
    (hsend : sendable s now i = true) : (sendReq i q now s).RequestsOk 1 := by
  obtain ⟨r, hr, henabled⟩ : ∃ r, s.sch[i]? = some r ∧ r.disabled = false := by
    cases hr : s.sch[i]? with
    | none => simp [sendable, hq, hr] at hsend
    | some r =>
      simp only [sendable, hq, hr, Bool.and_eq_true, Bool.not_eq_true'] at hsend
      obtain ⟨⟨henabled, -⟩, -⟩ := hsend
      exact ⟨r, rfl, henabled⟩
  obtain ⟨hle, hlt, -⟩ := h.entryOk hq hr
  have harmed : (s.armTimer ⟨q.code, now, q.softTimeoutMs⟩).RequestsOk 0 := h.of_idle rfl rfl
  refine (harmed.updReq (m := 1) (f := ReqState.sent now) hq hr ⟨hle, hlt, fun _ => ⟨henabled, ?_⟩⟩ ?_).congr rfl rfl rfl
  · simp
  · cases ha : r.awaiting <;> simp [ReqState.sent]

theorem sendNextAfter_requestsOk (prev : Byte) (now : Time) (h : s.RequestsOk 0) :
    (sendNextAfter prev now s).RequestsOk 1 := by
  rcases sendNextAfter_cases prev now s with ⟨i, q, hscan, hq, e⟩ | ⟨-, e⟩ <;> rw [e]
  · obtain ⟨-, -, hsend, -⟩ := scanFrom_eq_some hscan
    exact sendReq_requestsOk h hq hsend
  · exact ⟨h.length_eq, h.inFlight_le.trans (Nat.zero_le 1), h.entryOk⟩

/-- 42 R185: an answered request is in flight no more, and its count of failures begins again. -/
theorem markResponseSeen_requestsOk {m i : Nat} {q : ReqCfg} {r : ReqState} (code : Byte) (h : s.RequestsOk n)
    (hq : s.cfg.req[i]? = some q) (hr : s.sch[i]? = some r) (hm : n ≤ m + r.awaiting.toNat) :
    (markResponseSeen i code s).RequestsOk m := by
  have hanswered : requestOk s.timers q r.answered := ⟨by simp [ReqState.answered], by simp [ReqState.answered], nofun⟩
  exact (h.updReq hq hr hanswered hm).congr rfl rfl rfl

theorem processResponse_requestsOk (code : Byte) (now : Time) (h : s.RequestsOk 1) :
    (processResponse code now s).RequestsOk 1 := by
  rcases processResponse_cases code now s with ⟨-, e⟩ | ⟨i, hi, ha, e⟩ | ⟨i, hi, -, e⟩ <;> rw [e]
  · exact h
  · obtain ⟨q, r, hq, -, hr, hawaiting⟩ := entry_of_findReq h hi
    have hr1 : r.awaiting = true := hawaiting ▸ ha
    exact sendNextAfter_requestsOk code now (markResponseSeen_requestsOk code h hq hr (by simp [hr1]))
  · obtain ⟨q, r, hq, -, hr, -⟩ := entry_of_findReq h hi
    exact markResponseSeen_requestsOk code h hq hr (by omega)

/-- 42 R187, R189: a request in flight is not disabled, so that its failures are below the bound and one more reaches it at
most; where it does, the request is disabled. -/
theorem requestOk_timedOut {timers : List Timer} {q : ReqCfg} {r : ReqState} (h : requestOk timers q r)
    (ha : r.awaiting = true) : requestOk timers q (r.timedOut q.maxFailures) := by
  obtain ⟨-, hlt, hawaiting⟩ := h
  have hfail : r.failures.toNat < max 1 q.maxFailures.toNat := hlt (hawaiting ha).1
  have hmax : q.maxFailures.toNat < 2 ^ 8 := q.maxFailures.isLt
  have hadd : (r.failures + 1#8).toNat = r.failures.toNat + 1 := by
    rw [BitVec.toNat_add]
    simp only [BitVec.toNat_ofNat]
    omega
  refine ⟨?_, fun hdis => ?_, nofun⟩
  · show (r.failures + 1#8).toNat ≤ _
    omega
  · show (r.failures + 1#8).toNat < _
    simp only [ReqState.timedOut, Bool.or_eq_false_iff, decide_eq_false_iff_not] at hdis
    omega

/-- 42 R186: the timer that goes off is that of one code, and the codes are distinct. -/
theorem dropTimer_requestsOk {code : Byte} (hw : reqCodesWf s.cfg = true) (h : s.RequestsOk n)
    (hstale : findReq s.cfg code = none ∨ ∃ i, findReq s.cfg code = some i ∧ s.awaitingAt i = false) :
    (s.dropTimer code).RequestsOk n := by
  refine h.of_timers rfl rfl fun {j q r} hq hr ha => ?_
  have hne : q.code ≠ code := by
    intro hcode
    have hj : findReq s.cfg code = some j := hcode ▸ findReq_of_getElem hw hq
    rcases hstale with hnone | ⟨i, hi, hidle⟩
    · simp [hnone] at hj
    · obtain rfl : i = j := Option.some.inj (hi.symm.trans hj)
      simp [State.awaitingAt, hr, ha] at hidle
  obtain ⟨-, -, hawaiting⟩ := h.entryOk hq hr
  obtain ⟨x, hx, hxq⟩ := List.any_eq_true.mp (hawaiting ha).2
  rw [decide_eq_true_eq] at hxq
  refine List.any_eq_true.mpr ⟨x, ?_, decide_eq_true hxq⟩
  exact (List.mem_eraseP_of_neg (by simpa [hxq] using hne)).mpr hx

/-- 42 R186, R187: the request whose timer has gone off is in flight no more before the next one is sent. -/
theorem timeout_requestsOk (code : Byte) (now : Time) (hw : reqCodesWf s.cfg = true) (h : s.RequestsOk 1) :
    (timeoutEffect code now (s.dropTimer code)).RequestsOk 1 := by
  rcases timeoutEffect_cases code now (s.dropTimer code) with ⟨hstale, e⟩ | ⟨i, q, hi, hq, ha, e⟩ <;> rw [e]
  · exact dropTimer_requestsOk hw h hstale
  · obtain ⟨q', r, hq', -, hr, hawaiting⟩ := entry_of_findReq h hi
    obtain rfl : q = q' := Option.some.inj (hq.symm.trans hq')
    have hr1 : r.awaiting = true := hawaiting ▸ ha
    have hidle : (s.updReq i (ReqState.timedOut q.maxFailures)).RequestsOk 0 :=
      h.updReq hq hr (requestOk_timedOut (h.entryOk hq hr) hr1) (by simp [ReqState.timedOut, hr1])
    exact sendNextAfter_requestsOk code now (hidle.of_idle rfl rfl)

theorem State.Scheduled.requestsOk {u : State} (hw : reqCodesWf u.cfg = true) (hsched : u.Scheduled t)
    (h : u.RequestsOk 1) : t.RequestsOk 1 := by
  cases hsched with
  | idle => exact h
  | response code now => exact processResponse_requestsOk code now h
  | cycle now hidle =>
    have hnone : u.sch.countP (·.awaiting) = 0 := by
      simpa [State.anyAwaiting, List.countP_eq_zero] using hidle
    exact sendNextAfter_requestsOk _ now ⟨h.length_eq, hnone.le, h.entryOk⟩
  | timeout code now => exact timeout_requestsOk code now hw h

end

/-- 10 R40: the request table after RESET. -/
theorem requestInv_resetOf (c : Config) : requestInv (State.resetOf c) := by
  refine State.requestsOk_one_iff.mp ⟨by simp [State.resetOf], ?_, fun {i q r} _ hr => ?_⟩
  · simp [State.resetOf, reqReset, List.countP_replicate]
  · have hr' : r = reqReset := by
      simp only [State.resetOf, List.getElem?_map, Option.map_eq_some_iff] at hr
      obtain ⟨_, -, e⟩ := hr
      exact e.symm
    simp [hr', requestOk, reqReset]

theorem exec_keeps_requestInv {i : Instr} {s t : State} (hc : configWf s.cfg = true) (hs : requestInv s)
    (h : exec i s = .next t) : requestInv t := by
  by_cases hreset : i = .reset
  · subst hreset
    obtain ⟨-, rfl⟩ := exec_reset_eq_next h
    exact requestInv_resetOf s.resetCfg
  rw [← State.requestsOk_one_iff] at hs ⊢
  obtain ⟨u, hquiet, hsched⟩ := exec_scheduled hreset h
  have hw : reqCodesWf u.cfg = true := by
    simp only [configWf, Bool.and_eq_true] at hc
    rw [hquiet.cfg]
    tauto
  exact hsched.requestsOk hw (hs.congr hquiet.cfg hquiet.sch hquiet.timers)

/-- Settles O54: only the scheduler and RESET write the request table and the timers, and both leave them as `requestInv`
says. -/
theorem stepKeepsTheRequests : Obligations.StepKeepsTheRequests := fun _ _ hc hs h =>
  step_keeps (P := fun s => requestInv s) (fun _ hs => hs) exec_keeps_requestInv hc hs h

/-! ### The reset state -/

theorem safe_resetOf {c : Config} (hc : configWf c = true) : safe (State.resetOf c) :=
  ⟨hc, rfl, decoderInv_resetOf c, requestInv_resetOf c, Loop.inv_iff.mp (loopReset_inv hc),
    (Loop.inFx_iff.mp (loopReset_inFx hc)).1⟩

/-- Settles O59, from the lemmas about each part of the state after RESET. -/
theorem resetStateIsSafe : Obligations.ResetStateIsSafe := by
  have hmem (c : Config) : storeMemInv (State.resetOf c) := ⟨rfl, rfl, rfl, rfl⟩
  exact ⟨fun c hc => ⟨safe_resetOf hc, hmem c, Store.inFx_iff.mp (storeReset_inFx c)⟩, safe_resetOf (by decide)⟩

end Sys2Proof.Machine
end

section
/-! PROOFS. 20_memory.md R60, R72: that every step keeps the timer bytes and the function table canonical and inside their
addresses (StepKeepsTheStoreMemories), and that no operation but RESET writes the configuration (ConfigurationIsReadOnly). -/

namespace Sys2Proof.Machine

/-! ### What writes the byte spaces of the Store (20 R60 (b)) -/

/-- `t` has the timer bytes and the function table of `s`. -/
structure State.SameStoreMem (s t : State) : Prop where
  timerRaw : t.st.timerRaw = s.st.timerRaw
  func : t.st.func = s.st.func

section
variable {s t u : State}

theorem State.SameStoreMem.of_st_eq (h : t.st = s.st) : s.SameStoreMem t := ⟨by rw [h], by rw [h]⟩

theorem State.SameStoreMem.after (h' : t.SameStoreMem u) (h : s.SameStoreMem t) : s.SameStoreMem u :=
  ⟨h'.timerRaw.trans h.timerRaw, h'.func.trans h.func⟩

theorem State.SameStoreMem.storeMemInv (h : s.SameStoreMem t) (hs : storeMemInv s) : storeMemInv t := by
  simpa only [Machine.storeMemInv, h.timerRaw, h.func] using hs

/-! #### The frame effects (41) -/

theorem applyAck_sameStoreMem (s : State) : s.SameStoreMem (applyAck s) := by
  simp only [applyAck]
  exact .after (.of_st_eq (State.notifySettings_st ..)) ⟨rfl, rfl⟩

theorem applySettings_sameStoreMem (data : List Byte) (s : State) : s.SameStoreMem (applySettings data s) := by
  simp only [applySettings]
  split
  · exact .of_st_eq rfl
  · exact .after (.of_st_eq (State.notifySettings_st ..)) ⟨rfl, rfl⟩

theorem applyRoomtemp_sameStoreMem (data : List Byte) (s : State) : s.SameStoreMem (applyRoomtemp data s) := by
  unfold applyRoomtemp
  split
  · exact .of_st_eq rfl
  · exact .after (.of_st_eq (State.notifyStatus_st ..)) ⟨rfl, rfl⟩

theorem applyStatus_sameStoreMem (data : List Byte) (s : State) : s.SameStoreMem (applyStatus data s) := by
  unfold applyStatus
  split
  · exact .of_st_eq rfl
  · exact .after (.of_st_eq (State.notifyStatus_st ..)) ⟨rfl, rfl⟩

@[simp] theorem dataSlice_length (n : Nat) (data : List Byte) (first count : Nat) :
    (dataSlice n data first count).length = count := by
  simp [dataSlice]

/-- 41 R150: the five bytes that a timers frame writes are the five addresses of the timer bytes. -/
theorem applyTimers_storeMem (data : List Byte) (hs : storeMemInv s) : storeMemInv (applyTimers data s) := by
  obtain ⟨htimerWf, htimerBelow, hfunc⟩ := hs
  unfold applyTimers
  split
  · exact ⟨htimerWf, htimerBelow, hfunc⟩
  · exact ⟨memWriteAll_wf htimerWf _ _, memWriteAll_below htimerBelow _ _ (by simp), hfunc⟩

/-- 41 R155, R156: the half that a function frame writes is inside the table. -/
theorem applyFunc_storeMem {base : Nat} (hbase : base + funcHalf ≤ funcLen) (data : List Byte) (hs : storeMemInv s) :
    storeMemInv (applyFunc base data s) := by
  obtain ⟨htimerWf, htimerBelow, hfuncWf, hfuncBelow⟩ := hs
  unfold applyFunc
  split
  · exact ⟨htimerWf, htimerBelow, hfuncWf, hfuncBelow⟩
  · exact ⟨htimerWf, htimerBelow, memWriteAll_wf hfuncWf _ _,
      memWriteAll_below hfuncBelow _ _ (by simpa using hbase)⟩

/-- 41: a timers frame and the two function frames write inside their space, the others write no byte space; the scheduler,
which a 0x62 frame notifies, keeps both (`processResponse_storeMem`). -/
theorem frame_keeps_storeMem {ty : FrameType} {f : Frame} {now : Time} (hs : storeMemInv s)
    (h : exec (ty.instr f now) s = .next t) : storeMemInv t := by
  cases ty <;> cases h
  case ack => exact (applyAck_sameStoreMem s).storeMemInv hs
  case settings => exact processResponse_storeMem ((applySettings_sameStoreMem f.data s).storeMemInv hs)
  case roomtemp => exact processResponse_storeMem ((applyRoomtemp_sameStoreMem f.data s).storeMemInv hs)
  case timers => exact processResponse_storeMem (applyTimers_storeMem f.data hs)
  case status => exact processResponse_storeMem ((applyStatus_sameStoreMem f.data s).storeMemInv hs)
  case standby => exact processResponse_storeMem hs
  case funcLo => exact processResponse_storeMem (applyFunc_storeMem (by decide) f.data hs)
  case funcHi => exact processResponse_storeMem (applyFunc_storeMem (by decide) f.data hs)
  case connA => exact hs
  case connB => exact hs

/-- 40: a received byte touches the Store only through the frame that it completes. -/
theorem rxByte_keeps_storeMem {b : Byte} {now : Time} (hs : storeMemInv s) (h : exec (.rxByte b now) s = .next t) :
    storeMemInv t := by
  rcases rxByte_next_cases h with ⟨-, hst, -⟩ | ⟨u, ⟨-, hst, -⟩, hd⟩
  · exact (State.SameStoreMem.of_st_eq hst).storeMemInv hs
  · have hu : storeMemInv u := (State.SameStoreMem.of_st_eq hst).storeMemInv hs
    rcases dispatch_cases now u with ⟨ty, e⟩ | ⟨sub, e⟩ | e <;> rw [e] at hd
    · exact frame_keeps_storeMem hu hd
    · cases hd; exact processResponse_storeMem hu
    · cases hd; exact hu

/-! #### The gate and the loop (43, 44) -/

theorem toggle_sameStoreMem (g : GateAnswer) (now : Time) (s : State) : s.SameStoreMem (toggle g now s) := by
  rcases toggle_cases g now s with ⟨-, e⟩ | ⟨-, -, e⟩ | ⟨-, -, e⟩ | ⟨-, -, e⟩ <;> rw [e] <;> exact ⟨rfl, rfl⟩

theorem writeBack_sameStoreMem (s : State) : s.SameStoreMem (writeBack s) := ⟨rfl, rfl⟩

/-- 44 R230: of the Store a TICK writes what is wanted and the time of the last toggle. -/
theorem control_sameStoreMem (dtMs : Nat) (now : Time) (s : State) : s.SameStoreMem (control dtMs now s) := by
  simp only [control]
  generalize hu : toggle _ now _ = u
  have htoggle : s.SameStoreMem u := hu ▸ (toggle_sameStoreMem _ now _).after ⟨rfl, rfl⟩
  refine State.SameStoreMem.after ?_ htoggle
  split
  · have hpid : u.SameStoreMem (pidStep s.st.status.roomTemperature dtMs now u) := .of_st_eq (pidStep_st ..)
    exact (writeBack_sameStoreMem _).after hpid
  · exact (writeBack_sameStoreMem _).after ⟨rfl, rfl⟩

/-! #### Every operation -/

/-- Every operation, under any configuration. -/
theorem exec_keeps_storeMem {i : Instr} (hs : storeMemInv s) (h : exec i s = .next t) : storeMemInv t := by
  cases i with
  | fAck f now => exact frame_keeps_storeMem (ty := .ack) (f := f) (now := now) hs h
  | fSettings f now => exact frame_keeps_storeMem (ty := .settings) hs h
  | fRoomtemp f now => exact frame_keeps_storeMem (ty := .roomtemp) hs h
  | fTimers f now => exact frame_keeps_storeMem (ty := .timers) hs h
  | fStatus f now => exact frame_keeps_storeMem (ty := .status) hs h
  | fStandby f now => exact frame_keeps_storeMem (ty := .standby) (f := f) hs h
  | fFuncLo f now => exact frame_keeps_storeMem (ty := .funcLo) hs h
  | fFuncHi f now => exact frame_keeps_storeMem (ty := .funcHi) hs h
  | fConnA f now => exact frame_keeps_storeMem (ty := .connA) (f := f) (now := now) hs h
  | fConnB f now => exact frame_keeps_storeMem (ty := .connB) (f := f) (now := now) hs h
  | rxByte b now => exact rxByte_keeps_storeMem hs h
  | startCycle now =>
    cases h
    split
    · exact hs
    · exact (State.SameStoreMem.of_st_eq (sendNextAfter_st ..)).storeMemInv hs
  | timeout code now => cases h; exact (State.SameStoreMem.of_st_eq (timeoutEffect_st ..)).storeMemInv hs
  | tick now =>
    cases h
    dsimp only
    split
    · exact (control_sameStoreMem _ now { s with loop := { s.loop with lastTickAt := now } }).storeMemInv hs
    · exact hs
  | setTarget arg now => cases h; split <;> exact hs
  | setPower sym now | setMode sym now | setFan sym now | setVane sym now | setWidevane sym now =>
    cases h
    simpa only [storeMemInv, State.setWant_st, State.checkSym_st] using hs
  | setTemperature arg now | linkDown now | nop now | reservedD now | reservedE now | reservedF now => cases h; exact hs
  | reset =>
    obtain ⟨-, rfl⟩ := exec_reset_eq_next h
    exact ⟨rfl, rfl, rfl, rfl⟩

end

/-- Settles O58: a step is idle or one operation, and every operation keeps the byte spaces (`exec_keeps_storeMem`), so that
the configuration need not be well-formed. -/
theorem stepKeepsTheStoreMemories : Obligations.StepKeepsTheStoreMemories := by
  intro s t hs h
  rcases step_next_cases h with ⟨-, rfl⟩ | ⟨x, rest, -, -, hx⟩
  · exact hs
  · exact exec_keeps_storeMem (s := { s with port := rest }) hs hx

/-! ### The configuration (20 R72) -/

/-- `t` has the configuration in force in `s`, and the replacements that are ready (log 3). -/
structure State.SameConfig (s t : State) : Prop where
  cfg : t.cfg = s.cfg
  newCfg : t.newCfg = s.newCfg

section
variable {s t : State}

/-- 40 R110 to R118: a received byte, whatever the frame that it completes. -/
theorem rxByte_sameConfig {b : Byte} {now : Time} (h : exec (.rxByte b now) s = .next t) : s.SameConfig t := by
  cases hf : s.dec.fsm with
  | seeking =>
    rw [rxByte_seeking hf] at h
    cases h
    unfold seek
    split <;> exact ⟨rfl, rfl⟩
  | readingHeader =>
    rw [rxByte_header hf (count_lt_of_rxByte (by simp [hf]) h)] at h
    cases h
    unfold headerDone oversize
    split
    · split <;> exact ⟨rfl, rfl⟩
    · exact ⟨rfl, rfl⟩
  | readingBody =>
    rw [rxByte_body hf (count_lt_of_rxByte (by simp [hf]) h)] at h
    split at h
    · obtain ⟨u, hu, hcfg, hnew, -⟩ := complete_next now _
      cases hu.symm.trans h
      exact ⟨hcfg, hnew⟩
    · split at h <;> cases h <;> exact ⟨rfl, rfl⟩

/-- Every operation but RESET: no effect that an operation is made of writes the configuration. -/
theorem exec_sameConfig {i : Instr} (hreset : i ≠ .reset) (h : exec i s = .next t) : s.SameConfig t := by
  cases i with
  | reset => exact absurd rfl hreset
  | rxByte b now => exact rxByte_sameConfig h
  | startCycle now => cases h; split <;> constructor <;> simp
  | tick now => cases h; dsimp only; split <;> constructor <;> simp
  | setTarget arg now => cases h; split <;> exact ⟨rfl, rfl⟩
  | _ => cases h; constructor <;> simp

end

/-- Settles O50, from what every operation but RESET leaves alone (`exec_sameConfig`). -/
theorem configurationIsReadOnly : Obligations.ConfigurationIsReadOnly := by
  intro i s t hreset h
  obtain ⟨hcfg, hnew⟩ := exec_sameConfig hreset h
  exact ⟨hcfg, hnew⟩

end Sys2Proof.Machine
end

section
/-! PROOFS. 30_encoding.md R80 to R87, R95: `decode` undoes `encode` (DecodeOfEncodeIsTheOperation, and the encodings written out
in WrittenEncodingsDecode), and the checksum finds any one changed byte that leaves the frame its start and its length
(SingleByteMutationIsRejected). -/

namespace Sys2Proof

/-! ### The decoder on bytes that have the shape of a frame (30 R80, R81) -/

section
variable {cmd received : Byte} {f : Frame}

/-- 30 R84: the checksum byte makes the bytes of a frame sum to 0xFC, and no other byte does. -/
theorem checksum_eq_iff_sumBytes (bs : List Byte) (received : Byte) :
    checksum bs = received ↔ sumBytes (bs ++ [received]) = 0xFC#8 := by
  rw [sumBytes_append, checksum]
  simp only [sumBytes, List.foldr_cons, List.foldr_nil]
  constructor <;> intro h <;> bv_omega

/-- 30 R81: the length byte of a frame that fits holds its number of data bytes. -/
theorem lengthByte_toNat (hfit : f.data.length ≤ 255) : (BitVec.ofNat 8 f.data.length).toNat = f.data.length :=
  Nat.mod_eq_of_lt (by omega)

theorem decodeFrame_badChecksum (hfit : f.data.length ≤ 255) (now : Time) (hchk : checksum (frameBody cmd f) ≠ received) :
    decodeFrame (frameBody cmd f ++ [received]) now = .error (.badChecksum received) := by
  simp only [frameBody] at hchk
  simp [frameBody, decodeFrame, lengthByte_toNat hfit, hchk]

/-- 30 R80 to R87: a frame of a row of the table decodes to that row's operation. -/
theorem decodeFrame_encodeFrame {ty : FrameType} (hfit : f.data.length ≤ 255) (now : Time)
    (hty : frameTypeOf cmd f.data = .ok ty) : decodeFrame (encodeFrame cmd f) now = .ok (ty.instr f now) := by
  simp [encodeFrame, frameBody, decodeFrame, lengthByte_toNat hfit, hty]

/-- 30 R81: bytes with the start byte, and with a length byte that agrees with how many there are, are a frame's header, data
and last byte. -/
theorem exists_frameBody {bytes : List Byte} {n : Nat} (hlen : bytes.length = n + 6) (hstart : bytes[0]? = some 0xFC#8)
    (hlenByte : bytes[4]? = some (BitVec.ofNat 8 n)) :
    ∃ (cmd : Byte) (f : Frame) (received : Byte), f.data.length = n ∧ bytes = frameBody cmd f ++ [received] := by
  match bytes with
  | start :: cmd :: a :: b :: len :: last :: rest =>
    have hne : last :: rest ≠ [] := List.cons_ne_nil _ _
    refine ⟨cmd, ⟨a, b, (last :: rest).dropLast⟩, (last :: rest).getLast hne, ?_, ?_⟩
    · simpa using hlen
    · simp only [List.getElem?_cons_zero, List.getElem?_cons_succ, Option.some.injEq] at hstart hlenByte
      have hn : (last :: rest).dropLast.length = n := by simpa using hlen
      simp only [frameBody, hn, hstart, hlenByte, List.cons_append, List.dropLast_append_getLast]

/-- 30 R84: bytes in the shape of a frame that do not sum to 0xFC are rejected for their checksum. -/
theorem decodeFrame_of_sumBytes_ne {bytes : List Byte} {n : Nat} (hn : n ≤ 255) (hlen : bytes.length = n + 6)
    (hstart : bytes[0]? = some 0xFC#8) (hlenByte : bytes[4]? = some (BitVec.ofNat 8 n)) (hsum : sumBytes bytes ≠ 0xFC#8)
    (now : Time) : ∃ r, decodeFrame bytes now = .error (.badChecksum r) := by
  obtain ⟨cmd, f, received, rfl, rfl⟩ := exists_frameBody hlen hstart hlenByte
  exact ⟨received, decodeFrame_badChecksum hn now (mt (checksum_eq_iff_sumBytes _ _).mp hsum)⟩

end

/-- Settles O3: the changed frame keeps its shape, and the change moves the sum of its bytes away from 0xFC
(`sumBytes_set`). -/
theorem singleByteMutationIsRejected : Obligations.SingleByteMutationIsRejected := by
  intro cmd f k v now hfit hk0 hk4 hk hv
  obtain ⟨b, hb⟩ : ∃ b, (encodeFrame cmd f)[k]? = some b := ⟨_, List.getElem?_eq_getElem (by simpa using hk)⟩
  refine decodeFrame_of_sumBytes_ne hfit (by simp) ?_ ?_ ?_ now
  · rw [List.getElem?_set_ne hk0, encodeFrame_eq]; rfl
  · rw [List.getElem?_set_ne hk4, encodeFrame_eq]; rfl
  · have hbv : b ≠ v := fun h => hv (h ▸ hb)
    rw [sumBytes_set hb, sumBytes_encodeFrame]
    bv_omega

/-! ### Decode and encode agree (30 R87, R95) -/

/-- 30 R87: a 0x62 frame has the row of its subtype. -/
theorem decodeFrame_response {f : Frame} {sub : Byte} {ty : FrameType} (hwf : (f.fits && f.hasSubtype sub) = true)
    (hty : subtypeOf sub = .ok ty) (now : Time) : decodeFrame (encodeFrame 0x62#8 f) now = .ok (ty.instr f now) := by
  simp only [Frame.fits, Frame.hasSubtype, Bool.and_eq_true, decide_eq_true_eq, beq_iff_eq] at hwf
  obtain ⟨hfit, hsub⟩ := hwf
  obtain ⟨xs, hdata⟩ := List.head?_eq_some_iff.mp hsub
  exact decodeFrame_encodeFrame hfit now (by rw [hdata]; exact hty)

/-- 30 R87: the rows that are keyed by the command alone. -/
theorem decodeFrame_command {cmd : Byte} {f : Frame} {ty : FrameType} (hwf : f.fits = true)
    (hty : frameTypeOf cmd f.data = .ok ty) (now : Time) : decodeFrame (encodeFrame cmd f) now = .ok (ty.instr f now) :=
  decodeFrame_encodeFrame (by simpa [Frame.fits] using hwf) now hty

/-- 30 R95: the fields of an event word are what it was packed from, so that its selector finds the operation. -/
theorem decodeEvent_encode {i : Instr} {w : BitVec 68} (hi : encode i = .port (.event w)) : decodeEvent w = i := by
  cases i <;> cases hi <;>
    simp only [decodeEvent, eventOp_packEvent, eventArg_packEvent, eventNow_packEvent, argByte_setWidth] <;> rfl

/-- Settles O1: frames row by row, from the round trip of frames; events from that of their words. -/
theorem decodeOfEncodeIsTheOperation : Obligations.DecodeOfEncodeIsTheOperation := by
  intro i hwf
  cases i with
  | fAck f now => exact decodeFrame_command (cmd := 0x61#8) (ty := .ack) hwf rfl now
  | fConnA f now => exact decodeFrame_command (cmd := 0x7A#8) (ty := .connA) hwf rfl now
  | fConnB f now => exact decodeFrame_command (cmd := 0x7B#8) (ty := .connB) hwf rfl now
  | fSettings f now => exact decodeFrame_response hwf rfl now
  | fRoomtemp f now => exact decodeFrame_response hwf rfl now
  | fTimers f now => exact decodeFrame_response hwf rfl now
  | fStatus f now => exact decodeFrame_response hwf rfl now
  | fStandby f now => exact decodeFrame_response hwf rfl now
  | fFuncLo f now => exact decodeFrame_response hwf rfl now
  | fFuncHi f now => exact decodeFrame_response hwf rfl now
  | reset => rfl
  | _ => exact congrArg Except.ok (decodeEvent_encode rfl)

/-- Settles O4: bytes and words written out, which the model evaluates. -/
theorem writtenEncodingsDecode : Obligations.WrittenEncodingsDecode :=
  ⟨fun _ => rfl, fun _ => rfl, fun _ => rfl, by decide, by decide, by decide, rfl⟩

end Sys2Proof
end

section
/-! PROOFS. 30_encoding.md R88, R92, R96: which frames are unknown and what they do (UnknownFramesAreIgnored), the decode of an
enumeration (EnumDecodeIsTheLeastIndex), and the selectors that do nothing (NopAndReservedDoNothing). -/

namespace Sys2Proof.Machine

/-! ### The unknown encodings (30 R88) -/

/-- 30 R87: the commands of the table's rows. -/
abbrev knownCommands : List Byte := [0x61#8, 0x62#8, 0x7A#8, 0x7B#8]

/-- 30 R87: the subtypes of its 0x62 rows. -/
abbrev knownSubtypes : List Byte := [0x02#8, 0x03#8, 0x05#8, 0x06#8, 0x09#8, 0x20#8, 0x22#8]

section
variable {cmd sub : Byte} {data : List Byte}

theorem subtypeOf_unknown (h : sub ∉ knownSubtypes) : subtypeOf sub = .error (.subtype sub) := by
  simp only [List.mem_cons, List.not_mem_nil, or_false, not_or] at h
  simp [subtypeOf, h]

theorem subtypeOf_error_iff : (∃ u, subtypeOf sub = .error u) ↔ sub ∉ knownSubtypes := by
  refine ⟨fun ⟨u, hu⟩ hmem => ?_, fun h => ⟨_, subtypeOf_unknown h⟩⟩
  simp only [List.mem_cons, List.not_mem_nil, or_false] at hmem
  rcases hmem with rfl | rfl | rfl | rfl | rfl | rfl | rfl <;> cases hu

theorem frameTypeOf_unknown_command (data : List Byte) (h : cmd ∉ knownCommands) :
    frameTypeOf cmd data = .error (.command cmd) := by
  simp only [List.mem_cons, List.not_mem_nil, or_false, not_or] at h
  simp [frameTypeOf, h]

/-- 30 R88: unknown is a command of no row, and a 0x62 frame with no subtype or with one of no row. -/
theorem frameTypeOf_error_iff : (∃ u, frameTypeOf cmd data = .error u) ↔
    (cmd ∉ knownCommands ∨ (cmd = 0x62#8 ∧ data = []) ∨
      (cmd = 0x62#8 ∧ ∃ x xs, data = x :: xs ∧ x ∉ knownSubtypes)) := by
  by_cases hmem : cmd ∈ knownCommands
  · simp only [List.mem_cons, List.not_mem_nil, or_false] at hmem
    rcases hmem with rfl | rfl | rfl | rfl
    case inr.inl =>
      cases data with
      | nil => simp [frameTypeOf]
      | cons x xs => simpa [frameTypeOf] using subtypeOf_error_iff
    all_goals simp [frameTypeOf]
  · exact iff_of_true ⟨_, frameTypeOf_unknown_command data hmem⟩ (.inl hmem)

end

/-! ### The dispatch of an unknown frame (40 R125, R126) -/

section
variable {s : State} {now : Time}

theorem dispatch_command {cmd : Byte} (h : frameTypeOf (memRead s.dec.buf 1) s.dec.frame.data = .error (.command cmd)) :
    dispatch now s = .next s := by
  simp only [dispatch, h]

theorem dispatch_noSubtype (h : frameTypeOf (memRead s.dec.buf 1) s.dec.frame.data = .error .noSubtype) :
    dispatch now s = .next s := by
  simp only [dispatch, h]

theorem dispatch_subtype {sub : Byte}
    (h : frameTypeOf (memRead s.dec.buf 1) s.dec.frame.data = .error (.subtype sub)) :
    dispatch now s = .next (processResponse sub now s) := by
  simp only [dispatch, h]

end

/-- 20 R62: a frame of length 0 has no data. -/
theorem Decoder.frame_data_of_len_eq_zero {d : Decoder} (h : d.len = 0x00#8) : d.frame.data = [] := by
  simp [Decoder.frame, Decoder.payload, memReadAll, h]

/-- 20 R62: any other frame has its subtype at buffer index 5. -/
theorem Decoder.frame_data_of_len_ne_zero {d : Decoder} (h : d.len ≠ 0x00#8) :
    ∃ xs, d.frame.data = memRead d.buf 5 :: xs := by
  obtain ⟨n, hn⟩ : ∃ n, d.len.toNat = 1 + n := ⟨d.len.toNat - 1, by bv_omega⟩
  exact ⟨memReadAll d.buf (5 + 1) n, by simp only [Decoder.frame, Decoder.payload, hn, memReadAll_add]; rfl⟩

/-! ### The scheduler emits no error when a response arrives (42 R185, R188) -/

/-- The trace of `t` is that of `s` with events added of which none is an ERR. -/
def State.EmitsNoError (s t : State) : Prop := ∃ es, t.out = s.out ++ es ∧ ∀ code info, OutEvent.err code info ∉ es

theorem State.EmitsNoError.refl (s : State) : s.EmitsNoError s := ⟨[], by simp⟩

theorem State.EmitsNoError.trans {s t u : State} (h : s.EmitsNoError t) (h' : t.EmitsNoError u) : s.EmitsNoError u := by
  obtain ⟨es, hes, hno⟩ := h
  obtain ⟨es', hes', hno'⟩ := h'
  exact ⟨es ++ es', by simp [hes', hes], fun code info => by simp [hno, hno']⟩

theorem sendNextAfter_emitsNoError (prev : Byte) (now : Time) (s : State) :
    s.EmitsNoError (sendNextAfter prev now s) := by
  rcases sendNextAfter_cases prev now s with ⟨i, q, -, -, e⟩ | ⟨-, e⟩ <;> rw [e]
  · exact ⟨[.txRequest q.code, .armTimer q.code q.softTimeoutMs], by simp [sendReq], by simp⟩
  · exact ⟨[.cycleDone], rfl, by simp⟩

theorem markResponseSeen_emitsNoError (i : Nat) (code : Byte) (s : State) :
    s.EmitsNoError (markResponseSeen i code s) :=
  ⟨[.respSeen code], rfl, by simp⟩

theorem processResponse_emitsNoError (code : Byte) (now : Time) (s : State) :
    s.EmitsNoError (processResponse code now s) := by
  rcases processResponse_cases code now s with ⟨-, e⟩ | ⟨i, -, -, e⟩ | ⟨i, -, -, e⟩ <;> rw [e]
  · exact .refl s
  · exact (markResponseSeen_emitsNoError i code s).trans (sendNextAfter_emitsNoError code now _)
  · exact markResponseSeen_emitsNoError i code s

/-- Settles O8: the map of frames says which are unknown (`frameTypeOf_error_iff`), and `dispatch` answers each of its three
reasons. -/
theorem unknownFramesAreIgnored : Obligations.UnknownFramesAreIgnored := by
  refine ⟨fun cmd data => frameTypeOf_error_iff, ?_, ?_, ?_, fun s now sub => ?_, fun data => rfl⟩
  · rintro s now cmd rfl hcmd
    exact dispatch_command (frameTypeOf_unknown_command _ hcmd)
  · intro s now hcmd hlen
    exact dispatch_noSubtype (by rw [hcmd, Decoder.frame_data_of_len_eq_zero hlen]; rfl)
  · rintro s now sub hcmd hlen rfl hsub
    obtain ⟨xs, hdata⟩ := Decoder.frame_data_of_len_ne_zero hlen
    exact dispatch_subtype (by rw [hcmd, hdata]; exact subtypeOf_unknown hsub)
  · exact ⟨processResponse_st, processResponse_emitsNoError sub now s⟩

/-! ### The enumeration decode (30 R92, 41 R140) -/

section
variable {n : Nat} {table : List Byte} {code : Byte}

theorem decEnum_of_least (hlen : table.length = n) {i : Nat} (hi : table[i]? = some code)
    (hleast : ∀ j, j < i → table[j]? ≠ some code) : decEnum n table code = i := by
  obtain ⟨hlt, hcode⟩ := List.getElem?_eq_some_iff.mp hi
  have hfind : table.findIdx? (fun c => decide (c = code)) = some i := by
    refine List.findIdx?_eq_some_iff_getElem.mpr ⟨hlt, by simpa using hcode, fun j hj => ?_⟩
    have := hleast j hj
    simpa [List.getElem?_eq_getElem (hj.trans hlt)] using this
  simp only [decEnum, List.take_of_length_le hlen.le, hfind]

theorem decEnum_of_not_mem (hcode : code ∉ table) : decEnum n table code = 0 := by
  have hfind : (table.take n).findIdx? (fun c => decide (c = code)) = none := by
    refine List.findIdx?_eq_none_iff.mpr fun c hc => decide_eq_false fun h => hcode ?_
    exact h ▸ List.mem_of_mem_take hc
  simp only [decEnum, hfind]

end

/-- Settles O15: in a table of the enumeration's length every entry counts, and a code at no index is in no entry. -/
theorem enumDecodeIsTheLeastIndex : Obligations.EnumDecodeIsTheLeastIndex := fun _ _ _ hlen =>
  ⟨fun _ hi hleast => decEnum_of_least hlen hi hleast, decEnum_of_not_mem⟩

/-- Settles O46: NOP and the reserved selectors answer the state they are run on. -/
theorem nopAndReservedDoNothing : Obligations.NopAndReservedDoNothing := fun _ _ => ⟨rfl, rfl, rfl, rfl⟩

end Sys2Proof.Machine
end

section
/-! PROOFS. 40_frame_decoder.md R110 to R128: the frame check (ChecksumIsTheSumFromTheConstant), every transition of the decoder
(DecoderTransitions), and the byte that completes a frame of the table (LastByteRunsTheFrame). -/

namespace Sys2Proof.Machine

/-! ### The frame check (40 R117, 30 R84) -/

theorem verifyChecksum_iff {d : Decoder} : verifyChecksum d = true ↔
    checksum (memReadAll d.buf 0 (d.len.toNat + 5)) = memRead d.buf (d.len.toNat + 5) :=
  decide_eq_true_iff

theorem verifyChecksum_iff_sumBytes {d : Decoder} :
    verifyChecksum d = true ↔ sumBytes (memReadAll d.buf 0 (d.len.toNat + 6)) = 0xFC#8 := by
  rw [verifyChecksum_iff, checksum_eq_iff_sumBytes, memReadAll_succ _ _ (d.len.toNat + 5), Nat.zero_add]

/-- 30 R84: the checksum in unbounded arithmetic. -/
theorem checksum_toNat (bs : List Byte) :
    ((checksum bs).toNat : Int) = ((0xFC : Int) - ((bs.map BitVec.toNat).sum : Nat)) % 256 := by
  have hsum : (sumBytes bs).toNat = (bs.map BitVec.toNat).sum % 256 := sumBytes_toNat bs
  rw [checksum, BitVec.toNat_sub, hsum]
  simp only [BitVec.toNat_ofNat]
  omega

/-- Settles O2: the checksum of the bytes before the last one is that byte, and then all of them sum to the constant. -/
theorem checksumIsTheSumFromTheConstant : Obligations.ChecksumIsTheSumFromTheConstant := by
  refine ⟨fun d => ?_, fun d => ?_⟩
  · rw [verifyChecksum_iff, ← checksum_toNat, Int.natCast_inj, BitVec.toNat_inj]
  · rw [verifyChecksum_iff_sumBytes, ← BitVec.toNat_inj, sumBytes_toNat]; rfl

/-! ### The transitions of the decoder (40 R127) -/

section
variable {s : State} {b : Byte} {now : Time}

theorem rxByte_skips (hf : s.dec.fsm = .seeking) (hb : b ≠ 0xFC#8) : exec (.rxByte b now) s = .next s := by
  rw [rxByte_seeking hf, seek, if_neg hb]

theorem rxByte_starts (hf : s.dec.fsm = .seeking) :
    exec (.rxByte 0xFC#8 now) s =
      .next { s with dec := { s.dec with fsm := .readingHeader, count := 1, buf := memWrite s.dec.buf 0 0xFC#8 } } := by
  rw [rxByte_seeking hf, seek, if_pos rfl]

theorem rxByte_header_stores (hf : s.dec.fsm = .readingHeader) (hn : s.dec.count < 4)
    (hroom : s.dec.count < s.cfg.bufCap) :
    exec (.rxByte b now) s = .next { s with dec := storedDec s b } := by
  rw [rxByte_header hf hroom, if_neg (by omega)]

theorem rxByte_header_ends (hf : s.dec.fsm = .readingHeader) (hn : s.dec.count = 4)
    (hroom : s.dec.count < s.cfg.bufCap) :
    exec (.rxByte b now) s = .next (headerDone b { s with dec := storedDec s b }) := by
  rw [rxByte_header hf hroom, if_pos (by omega)]

theorem rxByte_length_fits (hf : s.dec.fsm = .readingHeader) (hn : s.dec.count = 4)
    (hfit : b.toNat + 6 ≤ s.cfg.bufCap) :
    exec (.rxByte b now) s = .next { s with dec := { storedDec s b with len := b, fsm := .readingBody } } := by
  rw [rxByte_header_ends hf hn (by omega), headerDone, if_neg (Nat.not_lt.mpr hfit)]

theorem rxByte_length_oversize (hf : s.dec.fsm = .readingHeader) (hn : s.dec.count = 4)
    (hroom : s.dec.count < s.cfg.bufCap) (hbig : s.cfg.bufCap < b.toNat + 6) :
    exec (.rxByte b now) s = .next { s with dec := droppedDec s b, out := s.out ++ [.err 2 b.toNat] } := by
  rw [rxByte_header_ends hf hn hroom, headerDone, if_pos hbig]; rfl

theorem rxByte_body_stores (hf : s.dec.fsm = .readingBody) (hmore : s.dec.count + 1 < s.dec.len.toNat + 6)
    (hroom : s.dec.count + 1 < s.cfg.bufCap) : exec (.rxByte b now) s = .next { s with dec := storedDec s b } := by
  rw [rxByte_body hf (by omega), if_neg (by omega), if_neg (by omega)]

theorem rxByte_body_overflows (hf : s.dec.fsm = .readingBody) (hmore : s.dec.count + 1 < s.dec.len.toNat + 6)
    (hroom : s.dec.count < s.cfg.bufCap) (hfull : s.cfg.bufCap ≤ s.dec.count + 1) :
    exec (.rxByte b now) s =
      .next { s with dec := droppedDec s b, out := s.out ++ [.err 3 (s.dec.count + 1)] } := by
  rw [rxByte_body hf hroom, if_neg (by omega), if_pos hfull]; rfl

theorem rxByte_body_completes (hf : s.dec.fsm = .readingBody) (hlast : s.dec.count + 1 = s.dec.len.toNat + 6)
    (hroom : s.dec.count < s.cfg.bufCap) :
    exec (.rxByte b now) s = complete now { s with dec := storedDec s b } := by
  rw [rxByte_body hf hroom, if_pos hlast]

theorem rxByte_accepts (hf : s.dec.fsm = .readingBody) (hlast : s.dec.count + 1 = s.dec.len.toNat + 6)
    (hroom : s.dec.count < s.cfg.bufCap) (hchk : verifyChecksum (storedDec s b) = true) :
    exec (.rxByte b now) s =
      dispatch now { s with
        dec := droppedDec s b
        out := s.out ++ [.frameAccepted (memRead (storedDec s b).buf 1) s.dec.len] } := by
  rw [rxByte_body_completes hf hlast hroom, complete, if_pos hchk]; rfl

/-- 60 R271: the byte that ERR 1 carries is the one just stored, which a buffer in canonical form reads back. -/
theorem rxByte_rejects (hwf : s.dec.buf.wf = true) (hf : s.dec.fsm = .readingBody)
    (hlast : s.dec.count + 1 = s.dec.len.toNat + 6) (hroom : s.dec.count < s.cfg.bufCap)
    (hchk : verifyChecksum (storedDec s b) = false) :
    exec (.rxByte b now) s = .next { s with dec := droppedDec s b, out := s.out ++ [.err 1 b.toNat] } := by
  have hread : memRead (storedDec s b).buf ((storedDec s b).len.toNat + 5) = b := by
    rw [memRead_write hwf, if_pos (show s.dec.len.toNat + 5 = s.dec.count by omega)]
  rw [rxByte_body_completes hf hlast hroom, complete, if_neg (by rw [hchk]; decide), hread]; rfl

end

/-- Settles O7: each row of the table is a lemma of its own; a capacity of 6 leaves room for the bytes of a header. -/
theorem decoderTransitions : Obligations.DecoderTransitions :=
  ⟨fun _ _ _ hf hb => rxByte_skips hf hb,
    fun _ _ hf => rxByte_starts hf,
    fun _ _ _ hcap hf hn => rxByte_header_stores hf hn (by omega),
    fun _ _ _ _ hf hn hfit => rxByte_length_fits hf hn hfit,
    fun _ _ _ hcap hf hn hbig => rxByte_length_oversize hf hn (by omega) hbig,
    fun _ _ _ hf hmore hroom => rxByte_body_stores hf hmore hroom,
    fun _ _ _ hf hlast hroom hchk => rxByte_accepts hf hlast hroom hchk,
    fun _ _ _ hwf hf hlast hroom hchk => rxByte_rejects hwf hf hlast hroom hchk,
    fun _ _ _ hf hmore hroom hfull => rxByte_body_overflows hf hmore hroom hfull⟩

/-! ### The byte that completes a frame of the table (40 R116, R125) -/

/-- 20 R62: the header bytes of the buffer, and the data after them. -/
theorem memReadAll_header (m : Memory) (n : Nat) :
    memReadAll m 0 (n + 5) =
      memRead m 0 :: memRead m 1 :: memRead m 2 :: memRead m 3 :: memRead m 4 :: memReadAll m 5 n := by
  rw [Nat.add_comm, memReadAll_add]; rfl

/-- 20 R62: the bytes of a frame in the buffer, its checksum last. -/
theorem memReadAll_frame (m : Memory) (n : Nat) :
    memReadAll m 0 (n + 6) =
      memRead m 0 :: memRead m 1 :: memRead m 2 :: memRead m 3 :: memRead m 4 ::
        (memReadAll m 5 n ++ [memRead m (n + 5)]) := by
  rw [memReadAll_succ, memReadAll_header, Nat.zero_add]; rfl

/-- 30 R80 to R88: bytes that decode have a valid checksum, and a command and data of a row of the table. -/
theorem decodeFrame_eq_ok {start cmd fa fb len received : Byte} {data : List Byte} {now : Time} {i : Instr}
    (h : decodeFrame (start :: cmd :: fa :: fb :: len :: (data ++ [received])) now = .ok i) :
    checksum (start :: cmd :: fa :: fb :: len :: data) = received ∧
      ∃ ty, frameTypeOf cmd data = .ok ty ∧ i = ty.instr ⟨fa, fb, data⟩ now := by
  obtain rfl : start = 0xFC#8 := by
    by_contra hne
    simp [decodeFrame, hne] at h
  have hlen : data.length = len.toNat := by
    by_contra hne
    simp [decodeFrame, hne] at h
  have hchk : checksum (0xFC#8 :: cmd :: fa :: fb :: len :: data) = received := by
    by_contra hne
    simp [decodeFrame, ← hlen, hne] at h
  cases hty : frameTypeOf cmd data with
  | ok ty => exact ⟨hchk, ty, rfl, by simpa [decodeFrame, ← hlen, hchk, hty] using h.symm⟩
  | error u => simp [decodeFrame, ← hlen, hchk, hty] at h

/-- Settles O6: the bytes that decode pass the frame check, and are what `dispatch` finds in the buffer. -/
theorem lastByteRunsTheFrame : Obligations.LastByteRunsTheFrame := by
  intro s b now i hf hcount hroom hdecode
  rw [memReadAll_frame] at hdecode
  obtain ⟨hchk, ty, hty, rfl⟩ := decodeFrame_eq_ok hdecode
  have hverify : verifyChecksum (storedDec s b) = true := by
    rw [verifyChecksum_iff, memReadAll_header]; exact hchk
  rw [rxByte_accepts hf (by omega) hroom hverify]
  exact dispatch_known hty

end Sys2Proof.Machine
end

section
/-! PROOFS. 40_frame_decoder.md R118: what a received byte adds to the trace, and that the overflow guard never fires
(OverflowGuardNeverFires). -/

namespace Sys2Proof.Machine

/-! ### The trace of a dispatched frame (41, 42) -/

/-- The trace of `t` is that of `s` with events added, none of them FRAME_ACCEPTED or an ERR (`State.EmitsNoError` and more):
no frame type emits either, nor does the scheduler when a response arrives. -/
def State.DispatchTrace (s t : State) : Prop :=
  ∃ es, t.out = s.out ++ es ∧ (∀ cmd len, OutEvent.frameAccepted cmd len ∉ es) ∧
    ∀ code info, OutEvent.err code info ∉ es

section
variable {s t u : State}

theorem State.DispatchTrace.of_out_eq (h : t.out = s.out) : s.DispatchTrace t := ⟨[], by simp [h]⟩

theorem State.DispatchTrace.after (h' : t.DispatchTrace u) (h : s.DispatchTrace t) : s.DispatchTrace u := by
  obtain ⟨es, hes, hframe, herr⟩ := h
  obtain ⟨es', hes', hframe', herr'⟩ := h'
  exact ⟨es ++ es', by simp [hes', hes], fun c l => by simp [hframe, hframe'], fun c i => by simp [herr, herr']⟩

theorem notifySettings_dispatchTrace (s : State) (changed : Bool) : s.DispatchTrace (s.notifySettings changed) :=
  ⟨_, s.notifySettings_out changed, by cases changed <;> simp⟩

theorem notifyStatus_dispatchTrace (s : State) (old : Status) : s.DispatchTrace (s.notifyStatus old) :=
  ⟨_, s.notifyStatus_out old, by split <;> simp⟩

theorem applyAck_dispatchTrace (s : State) : s.DispatchTrace (applyAck s) :=
  (notifySettings_dispatchTrace _ _).after (.of_out_eq rfl)

theorem applySettings_dispatchTrace (data : List Byte) (s : State) : s.DispatchTrace (applySettings data s) := by
  simp only [applySettings]
  split
  · exact .of_out_eq rfl
  · exact (notifySettings_dispatchTrace _ _).after (.of_out_eq rfl)

theorem applyRoomtemp_dispatchTrace (data : List Byte) (s : State) : s.DispatchTrace (applyRoomtemp data s) := by
  unfold applyRoomtemp
  split
  · exact .of_out_eq rfl
  · exact (notifyStatus_dispatchTrace _ _).after (.of_out_eq rfl)

theorem applyStatus_dispatchTrace (data : List Byte) (s : State) : s.DispatchTrace (applyStatus data s) := by
  unfold applyStatus
  split
  · exact .of_out_eq rfl
  · exact (notifyStatus_dispatchTrace _ _).after (.of_out_eq rfl)

theorem applyTimers_dispatchTrace (data : List Byte) (s : State) : s.DispatchTrace (applyTimers data s) := by
  unfold applyTimers
  split <;> exact .of_out_eq rfl

theorem applyFunc_dispatchTrace (base : Nat) (data : List Byte) (s : State) :
    s.DispatchTrace (applyFunc base data s) := by
  unfold applyFunc
  split <;> exact .of_out_eq rfl

theorem sendNextAfter_dispatchTrace (prev : Byte) (now : Time) (s : State) :
    s.DispatchTrace (sendNextAfter prev now s) := by
  rcases sendNextAfter_cases prev now s with ⟨i, q, -, -, e⟩ | ⟨-, e⟩ <;> rw [e]
  · exact ⟨[.txRequest q.code, .armTimer q.code q.softTimeoutMs], by simp [sendReq], by simp⟩
  · exact ⟨[.cycleDone], rfl, by simp⟩

theorem markResponseSeen_dispatchTrace (i : Nat) (code : Byte) (s : State) :
    s.DispatchTrace (markResponseSeen i code s) :=
  ⟨[.respSeen code], rfl, by simp⟩

theorem processResponse_dispatchTrace (code : Byte) (now : Time) (s : State) :
    s.DispatchTrace (processResponse code now s) := by
  rcases processResponse_cases code now s with ⟨-, e⟩ | ⟨i, -, -, e⟩ | ⟨i, -, -, e⟩ <;> rw [e]
  · exact .of_out_eq rfl
  · exact (sendNextAfter_dispatchTrace code now _).after (markResponseSeen_dispatchTrace i code s)
  · exact markResponseSeen_dispatchTrace i code s

/-- 41, 40 R126: a frame emits for its effect and then, for a 0x62 row, for the scheduler that it notifies. -/
theorem frame_dispatchTrace {ty : FrameType} {f : Frame} {now : Time} (h : exec (ty.instr f now) s = .next t) :
    s.DispatchTrace t := by
  have notified {code : Byte} {u : State} (hu : s.DispatchTrace u) : s.DispatchTrace (processResponse code now u) :=
    (processResponse_dispatchTrace code now u).after hu
  cases ty <;> cases h
  case ack => exact applyAck_dispatchTrace s
  case settings => exact notified (applySettings_dispatchTrace f.data s)
  case roomtemp => exact notified (applyRoomtemp_dispatchTrace f.data s)
  case timers => exact notified (applyTimers_dispatchTrace f.data s)
  case status => exact notified (applyStatus_dispatchTrace f.data s)
  case standby => exact processResponse_dispatchTrace _ now s
  case funcLo => exact notified (applyFunc_dispatchTrace _ f.data s)
  case funcHi => exact notified (applyFunc_dispatchTrace _ f.data s)
  case connA => exact .of_out_eq rfl
  case connB => exact .of_out_eq rfl

theorem dispatch_dispatchTrace {now : Time} (h : dispatch now s = .next t) : s.DispatchTrace t := by
  rcases dispatch_cases now s with ⟨ty, e⟩ | ⟨sub, e⟩ | e <;> rw [e] at h
  · exact frame_dispatchTrace h
  · cases h; exact processResponse_dispatchTrace sub now s
  · cases h; exact .of_out_eq rfl

/-! ### The overflow guard (40 R118) -/

/-- The trace of `t` is that of `s` with events added of which none is the overflow's ERR. -/
def State.EmitsNoOverflow (s t : State) : Prop := ∃ es, t.out = s.out ++ es ∧ ∀ info, OutEvent.err 3 info ∉ es

theorem State.EmitsNoOverflow.of_out_eq (h : t.out = s.out) : s.EmitsNoOverflow t := ⟨[], by simp [h]⟩

/-- One event of the decoder's own, and then those of the frame that is dispatched. -/
theorem State.EmitsNoOverflow.of_dispatch {e : OutEvent} (hu : u.out = s.out ++ [e]) (he : ∀ info, e ≠ .err 3 info)
    (h : u.DispatchTrace t) : s.EmitsNoOverflow t := by
  obtain ⟨es, hes, -, herr⟩ := h
  refine ⟨e :: es, by simp [hes, hu], fun info hmem => ?_⟩
  exact (List.mem_cons.mp hmem).elim (fun heq => he info heq.symm) (herr 3 info)

theorem rxByte_emitsNoOverflow {b : Byte} {now : Time} (hs : decoderInv s) (h : exec (.rxByte b now) s = .next t) :
    s.EmitsNoOverflow t := by
  obtain ⟨-, hheader, hbody, hwf, -⟩ := hs
  cases hf : s.dec.fsm with
  | seeking =>
    rw [rxByte_seeking hf] at h
    cases h
    unfold seek
    split <;> exact .of_out_eq rfl
  | readingHeader =>
    obtain ⟨-, hn⟩ := hheader hf
    have hroom : s.dec.count < s.cfg.bufCap := count_lt_of_rxByte (by simp [hf]) h
    rcases hn.lt_or_eq with hn | hn
    · cases (rxByte_header_stores hf hn hroom).symm.trans h
      exact .of_out_eq rfl
    · rcases le_or_gt (b.toNat + 6) s.cfg.bufCap with hfit | hbig
      · cases (rxByte_length_fits hf hn hfit).symm.trans h
        exact .of_out_eq rfl
      · cases (rxByte_length_oversize hf hn hroom hbig).symm.trans h
        exact ⟨_, rfl, by simp⟩
  | readingBody =>
    obtain ⟨-, hlen, hcap⟩ := hbody hf
    rcases hlen.lt_or_eq with hmore | hlast
    · cases (rxByte_body_stores hf (by omega) (by omega)).symm.trans h
      exact .of_out_eq rfl
    · cases hchk : verifyChecksum (storedDec s b) with
      | true =>
        rw [rxByte_accepts hf (by omega) (by omega) hchk] at h
        exact .of_dispatch rfl (by simp) (dispatch_dispatchTrace h)
      | false =>
        cases (rxByte_rejects hwf hf (by omega) (by omega) hchk).symm.trans h
        exact ⟨_, rfl, by simp⟩

end

/-- Settles O9: in the body the invariant leaves room for the whole frame, so that its last byte comes before the buffer is
full; no other case raises ERR 3. -/
theorem overflowGuardNeverFires : Obligations.OverflowGuardNeverFires := fun _ _ _ _ hs h =>
  rxByte_emitsNoOverflow hs h

end Sys2Proof.Machine
end

section
/-! PROOFS. 40_frame_decoder.md R122: a frame that is received byte by byte after garbage is accepted as itself
(GarbageThenOneFrame). -/

namespace Sys2Proof.Machine

/-! ### The bytes of a frame before its checksum (40 R111 to R115) -/

theorem feed_singleton (b : Byte) (now : Time) (s : State) : feed [(b, now)] s = exec (.rxByte b now) s := by
  show execAll [.rxByte b now] s = _
  unfold execAll
  cases exec (.rxByte b now) s <;> rfl

section
variable {s : State} {cmd : Byte} {f : Frame}

/-- 40 R111: bytes with no start byte among them are skipped. -/
theorem feed_garbage (hf : s.dec.fsm = .seeking) {garbage : List (Byte × Time)} (h : ∀ p ∈ garbage, p.1 ≠ 0xFC#8) :
    feed garbage s = .next s := by
  induction garbage with
  | nil => rfl
  | cons p garbage ih =>
    obtain ⟨hp, hrest⟩ := List.forall_mem_cons.mp h
    rw [feed_cons (rxByte_skips hf hp)]
    exact ih hrest

/-- 40 R112, R115: the next `n` bytes are stored and nothing else: in the header those before the length byte, in the body
those before the checksum. -/
def State.StoresNext (n : Nat) (s : State) : Prop :=
  (s.dec.fsm = .readingHeader ∧ s.dec.count + n ≤ 4 ∧ 6 ≤ s.cfg.bufCap) ∨
  (s.dec.fsm = .readingBody ∧ s.dec.count + n < s.dec.len.toNat + 6 ∧ s.dec.len.toNat + 6 ≤ s.cfg.bufCap)

theorem State.StoresNext.rxByte {n : Nat} {b : Byte} {now : Time} (h : s.StoresNext (n + 1)) :
    exec (.rxByte b now) s = .next { s with dec := storedDec s b } := by
  rcases h with ⟨hf, hn, hcap⟩ | ⟨hf, hn, hcap⟩
  · exact rxByte_header_stores hf (by omega) (by omega)
  · exact rxByte_body_stores hf (by omega) (by omega)

theorem State.StoresNext.tail {n : Nat} (b : Byte) (h : s.StoresNext (n + 1)) :
    State.StoresNext n { s with dec := storedDec s b } := by
  simpa only [State.StoresNext, Nat.add_assoc, Nat.add_comm 1] using h

theorem feed_stores {bytes : List (Byte × Time)} (h : s.StoresNext bytes.length) :
    feed bytes s = .next { s with dec := { s.dec with
      count := s.dec.count + bytes.length
      buf := memWriteAll s.dec.buf s.dec.count (bytes.map Prod.fst) } } := by
  induction bytes generalizing s with
  | nil => rfl
  | cons p bytes ih =>
    rw [feed_cons h.rxByte, ih (h.tail p.1)]
    simp only [List.length_cons, List.map_cons, memWriteAll, Nat.add_assoc, Nat.add_comm 1]

/-- 30 R81: the header and data of a frame that fits, received from `Seeking`, stand at the start of the buffer. -/
theorem feed_frameBody (hf : s.dec.fsm = .seeking) (hfit : f.data.length ≤ 255)
    (hcap : f.data.length + 6 ≤ s.cfg.bufCap) {front : List (Byte × Time)}
    (hfront : front.map Prod.fst = frameBody cmd f) :
    feed front s = .next { s with dec :=
      ⟨.readingBody, f.data.length + 5, BitVec.ofNat 8 f.data.length, memWriteAll s.dec.buf 0 (frameBody cmd f)⟩ } := by
  have hlen : (BitVec.ofNat 8 f.data.length).toNat = f.data.length := lengthByte_toNat hfit
  match front with
  | (_, now₀) :: (cmd, now₁) :: (fa, now₂) :: (fb, now₃) :: (len, now₄) :: payload =>
    simp only [frameBody, List.map_cons, List.cons.injEq] at hfront ⊢
    obtain ⟨rfl, rfl, rfl, rfl, rfl, hdata⟩ := hfront
    have hcount : payload.length = f.data.length := by rw [← hdata, List.length_map]
    calc feed ((0xFC#8, now₀) :: (cmd, now₁) :: (f.fixedA, now₂) :: (f.fixedB, now₃) :: (_, now₄) :: payload) s
      _ = feed ([(cmd, now₁), (f.fixedA, now₂), (f.fixedB, now₃)] ++ (_, now₄) :: payload)
            { s with dec := ⟨.readingHeader, 1, s.dec.len, memWriteAll s.dec.buf 0 [0xFC#8]⟩ } :=
          feed_cons (rxByte_starts hf) _
      _ = feed ((_, now₄) :: payload)
            { s with dec := ⟨.readingHeader, 4, s.dec.len,
              memWriteAll s.dec.buf 0 [0xFC#8, cmd, f.fixedA, f.fixedB]⟩ } :=
          feed_append (feed_stores (.inl ⟨rfl, le_rfl, by dsimp only; omega⟩))
      _ = feed payload { s with dec := ⟨.readingBody, 5, BitVec.ofNat 8 f.data.length,
            memWriteAll s.dec.buf 0 [0xFC#8, cmd, f.fixedA, f.fixedB, BitVec.ofNat 8 f.data.length]⟩ } :=
          feed_cons (rxByte_length_fits rfl rfl (by dsimp only; omega)) _
      _ = _ := by
          rw [feed_stores (.inr ⟨rfl, by dsimp only; omega, by dsimp only; omega⟩), hdata, hcount, Nat.add_comm 5]
          rfl

end

/-! ### A frame in the buffer (20 R61, R62) -/

/-- The bytes of a frame that fits stand at the start of the buffer, and `len` is its length byte. -/
structure Decoder.Holds (d : Decoder) (cmd : Byte) (f : Frame) : Prop where
  fits : f.data.length ≤ 255
  len : d.len = BitVec.ofNat 8 f.data.length
  bytes : memReadAll d.buf 0 (f.data.length + 6) = encodeFrame cmd f

theorem memReadAll_writeAll {m : Memory} (h : m.wf = true) (a : Nat) (bs : List Byte) :
    memReadAll (memWriteAll m a bs) a bs.length = bs := by
  refine List.ext_getElem (by simp) fun k _ hk => ?_
  simp [memReadAll, memRead_writeAll h, hk]

section
variable {d : Decoder} {cmd : Byte} {f : Frame}

theorem Decoder.Holds.len_toNat (h : d.Holds cmd f) : d.len.toNat = f.data.length := by
  rw [h.len, lengthByte_toNat h.fits]

theorem Decoder.Holds.verifyChecksum (h : d.Holds cmd f) : verifyChecksum d = true := by
  rw [verifyChecksum_iff_sumBytes, h.len_toNat, h.bytes, sumBytes_encodeFrame]

theorem Decoder.Holds.command_and_frame (h : d.Holds cmd f) : memRead d.buf 1 = cmd ∧ d.frame = f := by
  have hbytes := h.bytes
  rw [memReadAll_frame, encodeFrame_eq] at hbytes
  simp only [List.cons.injEq] at hbytes
  obtain ⟨-, hcmd, hfa, hfb, -, hrest⟩ := hbytes
  obtain ⟨hdata, -⟩ := List.append_inj' hrest rfl
  refine ⟨hcmd, ?_⟩
  rw [Decoder.frame, Decoder.payload, h.len_toNat, hfa, hfb, hdata]

/-- Where the decoder is does not matter to what its buffer holds. -/
theorem holds_of_writeAll {m : Memory} (hwf : m.wf = true) (hfit : f.data.length ≤ 255) (fsm : Fsm) (count : Nat) :
    Decoder.Holds ⟨fsm, count, BitVec.ofNat 8 f.data.length, memWriteAll m 0 (encodeFrame cmd f)⟩ cmd f :=
  ⟨hfit, rfl, by rw [← encodeFrame_length cmd f]; exact memReadAll_writeAll hwf 0 _⟩

end

/-! ### Resynchronisation (40 R122) -/

/-- The state in which a frame that has been received whole is dispatched: the decoder seeks again, the frame stands at the
start of the buffer, and FRAME_ACCEPTED has been emitted (40 R116). -/
abbrev State.accepting (s : State) (cmd : Byte) (f : Frame) : State :=
  { s with
    dec := ⟨.seeking, 0, BitVec.ofNat 8 f.data.length, memWriteAll s.dec.buf 0 (encodeFrame cmd f)⟩
    out := s.out ++ [.frameAccepted cmd (BitVec.ofNat 8 f.data.length)] }

section
variable {s : State} {cmd last : Byte} {f : Frame} {front : List (Byte × Time)}

/-- 40 R115, R116: with the rest of the frame in the buffer, the byte that completes it passes the frame check. -/
theorem rxByte_completes_encodeFrame (hwf : s.dec.buf.wf = true) (hfit : f.data.length ≤ 255)
    (hcap : f.data.length + 6 ≤ s.cfg.bufCap) (hframe : frameBody cmd f ++ [last] = encodeFrame cmd f) (now : Time) :
    exec (.rxByte last now) { s with dec :=
      ⟨.readingBody, f.data.length + 5, BitVec.ofNat 8 f.data.length, memWriteAll s.dec.buf 0 (frameBody cmd f)⟩ } =
      dispatch now (s.accepting cmd f) := by
  have hlen : (BitVec.ofNat 8 f.data.length).toNat = f.data.length := lengthByte_toNat hfit
  have hbuf : memWrite (memWriteAll s.dec.buf 0 (frameBody cmd f)) (f.data.length + 5) last =
      memWriteAll s.dec.buf 0 (encodeFrame cmd f) := by
    rw [← hframe, memWriteAll_append, Nat.zero_add]; rfl
  have hholds := holds_of_writeAll (cmd := cmd) hwf hfit .readingBody (f.data.length + 6)
  rw [rxByte_accepts rfl (by dsimp only; omega) (by dsimp only; omega)
    (by simpa only [storedDec, hbuf] using hholds.verifyChecksum)]
  simp only [droppedDec, hbuf, hholds.command_and_frame.1]

/-- 40 R110 to R116: a frame that fits, received from `Seeking`, is accepted as a whole and dispatched once. -/
theorem feed_encodeFrame (hf : s.dec.fsm = .seeking) (hwf : s.dec.buf.wf = true) (hfit : f.data.length ≤ 255)
    (hcap : f.data.length + 6 ≤ s.cfg.bufCap) (hframe : front.map Prod.fst ++ [last] = encodeFrame cmd f) (now : Time) :
    feed (front ++ [(last, now)]) s = dispatch now (s.accepting cmd f) := by
  obtain ⟨hfront, -⟩ := List.append_inj' hframe rfl
  rw [feed_append (feed_frameBody hf hfit hcap hfront), feed_singleton]
  exact rxByte_completes_encodeFrame hwf hfit hcap (hfront ▸ hframe) now

end

/-- Settles O10: the garbage is skipped (`feed_garbage`), the frame is received whole (`feed_encodeFrame`), and what it does
when it is dispatched adds no FRAME_ACCEPTED (`dispatch_dispatchTrace`) and leaves the decoder alone. -/
theorem garbageThenOneFrame : Obligations.GarbageThenOneFrame := by
  intro s garbage front last now cmd f hf hwf hgarbage hfit hcap hframe
  have hskip : feed garbage s = .next s := feed_garbage hf hgarbage
  have hfeed : feed (garbage ++ front ++ [(last, now)]) s = dispatch now (s.accepting cmd f) := by
    rw [List.append_assoc, feed_append hskip, feed_encodeFrame hf hwf hfit hcap hframe]
  obtain ⟨hcmd, hheld⟩ := (holds_of_writeAll (cmd := cmd) hwf hfit .seeking 0).command_and_frame
  obtain ⟨t, ht, -, -, hdec, -⟩ := dispatch_next now (s.accepting cmd f)
  obtain ⟨es, hout, haccepted, -⟩ := dispatch_dispatchTrace ht
  exact ⟨hskip, _, rfl, rfl, rfl, hcmd, hheld, hfeed, t, es, hfeed.trans ht, hdec, hout, haccepted⟩

end Sys2Proof.Machine
end

section
/-! PROOFS. 41_frame_dispatch_and_store.md R140 to R158: what each frame type does to the Store, as whole-state equalities
(SettingsFrameOverwritesCurrent, SettingsPayloadDecodes, RoomTemperatureFrame, StatusFrame, TimersFrameStoresFiveBytes,
FunctionTableFramesStoreAHalf, StandbyFrameOnlyNotifies, ConnectFramesMarkTheLink). -/

namespace Sys2Proof.Machine

/-! ### The change events (00 R13, 41 R158) -/

theorem State.notifySettings_eq (s : State) (changed : Bool) :
    s.notifySettings changed = { s with out := s.out ++ if changed then [.settingsChanged] else [] } := by
  cases changed <;> simp [State.notifySettings, State.emit]

theorem State.notifyStatus_eq (s : State) (old : Status) :
    s.notifyStatus old =
      { s with out := s.out ++ if statusEqual s.cfg old s.st.status then [] else [.statusChanged] } := by
  unfold State.notifyStatus
  split <;> simp [State.emit, *]

theorem settingsEqual_iff {c : Config} {a b : Settings} : settingsEqual c a b = true ↔
    a.power = b.power ∧ a.mode = b.mode ∧ a.fan = b.fan ∧ a.vane = b.vane ∧ a.wideVane = b.wideVane ∧
    ((a.temperature - b.temperature).natAbs : Int) ≤ c.eps := by
  simp only [settingsEqual, Bool.and_eq_true, decide_eq_true_eq, near_iff]
  tauto

theorem statusEqual_iff {c : Config} {a b : Status} : statusEqual c a b = true ↔
    a.operating = b.operating ∧ ((a.compressorFrequency - b.compressorFrequency).natAbs : Int) ≤ c.eps ∧
    ((a.inputPower - b.inputPower).natAbs : Int) ≤ c.eps ∧ ((a.kwh - b.kwh).natAbs : Int) ≤ c.eps ∧
    ((a.runtimeHours - b.runtimeHours).natAbs : Int) ≤ c.eps ∧
    ((a.roomTemperature - b.roomTemperature).natAbs : Int) ≤ c.eps := by
  simp only [statusEqual, Bool.and_eq_true, decide_eq_true_eq, near_iff, and_assoc]

/-! ### The frames that notify the scheduler (40 R126)

A 0x62 frame runs its effect on the Store and then notifies with its row's subtype. -/

section
variable {s t : State} {f : Frame} {now : Time}

theorem exec_fSettings_of_eq (h : applySettings f.data s = t) :
    exec (.fSettings f now) s = .next (processResponse 0x02#8 now t) := h ▸ rfl

theorem exec_fRoomtemp_of_eq (h : applyRoomtemp f.data s = t) :
    exec (.fRoomtemp f now) s = .next (processResponse 0x03#8 now t) := h ▸ rfl

theorem exec_fTimers_of_eq (h : applyTimers f.data s = t) :
    exec (.fTimers f now) s = .next (processResponse 0x05#8 now t) := h ▸ rfl

theorem exec_fStatus_of_eq (h : applyStatus f.data s = t) :
    exec (.fStatus f now) s = .next (processResponse 0x06#8 now t) := h ▸ rfl

theorem exec_fFuncLo_of_eq (h : applyFunc 0 f.data s = t) :
    exec (.fFuncLo f now) s = .next (processResponse 0x20#8 now t) := h ▸ rfl

theorem exec_fFuncHi_of_eq (h : applyFunc funcHalf f.data s = t) :
    exec (.fFuncHi f now) s = .next (processResponse 0x22#8 now t) := h ▸ rfl

end

/-! ### The bytes of a payload (30 R90 to R93, 41 R140) -/

section
variable {c : Config} {n : Nat} {data : List Byte}

/-- The test by which 41 R147 and R148 take the signed byte: it is there and not zero. -/
theorem dataAt_present_ne_zero_iff {i : Nat} :
    (i < data.length ∧ dataAt n data i ≠ 0x00#8) ↔ ∃ e, data[i]? = some e ∧ e ≠ 0x00#8 := by
  constructor
  · rintro ⟨hlt, hne⟩
    have hi : data[i]? = some data[i] := List.getElem?_eq_getElem hlt
    exact ⟨data[i], hi, dataAt_of_getElem? hi ▸ hne⟩
  · rintro ⟨e, hi, hne⟩
    exact ⟨(List.getElem?_eq_some_iff.mp hi).1, (dataAt_of_getElem? hi).symm ▸ hne⟩

theorem signedHalf_eq (c : Config) (b : Byte) :
    signedHalf c b = sat c (Int.fdiv (((b.toNat : Int) - 128) * (c.scale : Int)) 2) := by
  rw [signedHalf, fx_of_pos c _ (by decide)]; rfl

theorem tableTemp_eq {table : List Int} {b : Byte} {t : Int}
    (h : table[b.toNat]? = some t ∨ (table[b.toNat]? = none ∧ table[0]? = some t)) :
    tableTemp c table b n = sat c (t * (c.scale : Int)) := by
  rw [tableTemp, tableEntry_eq n h, fx_one]

/-- 41 R146: the low four bits. -/
theorem ofNat_mod_16_eq_and (b : Byte) : BitVec.ofNat 8 (b.toNat % 16) = b &&& 0x0F#8 := by
  have hand : b.toNat &&& 15 = b.toNat % 16 := Nat.and_two_pow_sub_one_eq_mod b.toNat 4
  apply BitVec.eq_of_toNat_eq
  rw [BitVec.toNat_and, BitVec.toNat_ofNat, BitVec.toNat_ofNat, hand]
  omega

end

/-! ### F_SETTINGS (41 R142, R146, R147) -/

section
variable {c : Config} {n : Nat} {data : List Byte}

theorem modeCode_eq {b : Byte} (h : data[c.pmap.setMode]? = some b) :
    modeCode c n data = if c.pmap.setIseeFold = true ∧ 8 < b.toNat then b - 0x08#8 else b := by
  simp [modeCode, dataAt_of_getElem? h]

theorem settingsTemperature_signed {e : Byte} (h : data[c.pmap.setTempExt]? = some e) (he : e ≠ 0x00#8) :
    settingsTemperature c n data = signedHalf c e := by
  have hsigned := dataAt_present_ne_zero_iff (n := n).mpr ⟨e, h, he⟩
  rw [settingsTemperature, if_pos hsigned, dataAt_of_getElem? h]

theorem settingsTemperature_table {b : Byte} (h : data[c.pmap.setTemp]? = some b)
    (hext : ∀ e, data[c.pmap.setTempExt]? = some e → e = 0x00#8) :
    settingsTemperature c n data = tableTemp c c.pmap.tempTable b n := by
  have hsigned : ¬ (c.pmap.setTempExt < data.length ∧ dataAt n data c.pmap.setTempExt ≠ 0x00#8) := fun hset =>
    have ⟨e, he, hne⟩ := dataAt_present_ne_zero_iff.mp hset
    hne (hext e he)
  rw [settingsTemperature, if_neg hsigned, dataAt_of_getElem? h]

end

/-- Settles O14: every field but the temperature is the decode of its byte, and the temperature is the signed byte's or the
table's (`settingsTemperature_signed`, `settingsTemperature_table`). -/
theorem settingsPayloadDecodes : Obligations.SettingsPayloadDecodes := by
  intro c n data bp bm bt bf bv bw hp hm ht hf hv hw
  refine ⟨?power, ?mode, ?fan, ?vane, ?wideVane, fun e he hne => ?signed, fun hext => ⟨fun t htab => ?entry,
    fun t hnone hzero => ?fallback⟩⟩
  case power => simp only [settingsOf, dataAt_of_getElem? hp]
  case mode => simp only [settingsOf, modeCode_eq hm]
  case fan => simp only [settingsOf, dataAt_of_getElem? hf]
  case vane => simp only [settingsOf, dataAt_of_getElem? hv]
  case wideVane => simp only [settingsOf, dataAt_of_getElem? hw, ofNat_mod_16_eq_and]
  case signed => exact (settingsTemperature_signed he hne).trans (signedHalf_eq c e)
  case entry => exact (settingsTemperature_table ht hext).trans (tableTemp_eq (.inl htab))
  case fallback => exact (settingsTemperature_table ht hext).trans (tableTemp_eq (.inr ⟨hnone, hzero⟩))

section
variable {s : State} {data : List Byte}

theorem applySettings_of_short (h : data.length < s.cfg.pmap.setMinLen) : applySettings data s = s := if_pos h

theorem applySettings_of_long (h : s.cfg.pmap.setMinLen ≤ data.length) :
    applySettings data s =
      { s with
        st := storeSettings (settingsOf s.cfg s.freeCtr data) s.st
        out := s.out ++
          if s.st.firstRun || !settingsEqual s.cfg s.st.cur (settingsOf s.cfg s.freeCtr data) then [.settingsChanged]
          else []
        freeCtr := s.freeCtr + 1 } :=
  (if_neg h.not_gt).trans (State.notifySettings_eq _ _)

end

/-- Settles O13, from the two lengths of a payload and what equality of settings means. -/
theorem settingsFrameOverwritesCurrent : Obligations.SettingsFrameOverwritesCurrent := by
  refine ⟨fun c a b => settingsEqual_iff, ?_⟩
  rintro s f now new rfl
  exact ⟨fun hshort => exec_fSettings_of_eq (applySettings_of_short hshort),
    fun hlong => exec_fSettings_of_eq (applySettings_of_long hlong)⟩

/-! ### F_ROOMTEMP (41 R148, R149) -/

section
variable {c : Config} {n : Nat} {data : List Byte}

theorem signedPath_iff : signedPath c n data = true ↔ ∃ e, data[c.pmap.rtExt]? = some e ∧ e ≠ 0x00#8 := by
  rw [← dataAt_present_ne_zero_iff (n := n)]
  simp [signedPath]

theorem roomTemperatureOf_signed {e : Byte} (h : data[c.pmap.rtExt]? = some e) (he : e ≠ 0x00#8) :
    roomTemperatureOf c n data = signedHalf c e := by
  rw [roomTemperatureOf, if_pos (signedPath_iff.mpr ⟨e, h, he⟩), dataAt_of_getElem? h]

theorem signedPath_eq_false (h : ∀ e, data[c.pmap.rtExt]? = some e → e = 0x00#8) : signedPath c n data = false :=
  Bool.eq_false_iff.mpr fun hsigned =>
    have ⟨e, he, hne⟩ := signedPath_iff.mp hsigned
    hne (h e he)

theorem runtimeOf_present {x y z : Byte} (hx : data[c.pmap.rtRuntime]? = some x) (hy : data[c.pmap.rtRuntime + 1]? = some y)
    (hz : data[c.pmap.rtRuntime + 2]? = some z) (old : Int) :
    runtimeOf c n data old = fxUnsigned c (be24 x y z) c.pmap.rtRuntimeDiv := by
  have hlt : c.pmap.rtRuntime + 2 < data.length := (List.getElem?_eq_some_iff.mp hz).1
  rw [runtimeOf, if_pos hlt, dataAt_of_getElem? hx, dataAt_of_getElem? hy, dataAt_of_getElem? hz]

theorem runtimeOf_absent (h : data.length ≤ c.pmap.rtRuntime + 2) (old : Int) : runtimeOf c n data old = old :=
  if_neg h.not_gt

end

section
variable {s : State} {data : List Byte}

theorem applyRoomtemp_of_short (h : data.length < s.cfg.pmap.rtMinLen) : applyRoomtemp data s = s := if_pos h

theorem applyRoomtemp_of_long (h : s.cfg.pmap.rtMinLen ≤ data.length) :
    applyRoomtemp data s =
      { s with
        st := storeRoomtemp s.cfg s.freeCtr data s.st
        out := s.out ++
          if statusEqual s.cfg s.st.status (storeRoomtemp s.cfg s.freeCtr data s.st).status then []
          else [.statusChanged]
        freeCtr := s.freeCtr + 1 } :=
  (if_neg h.not_gt).trans (State.notifyStatus_eq _ _)

end

/-- Settles O16: the two paths of the temperature and the two of the runtime say what `storeRoomtemp` leaves. -/
theorem roomTemperatureFrame : Obligations.RoomTemperatureFrame := by
  rintro s f now room hours ext status hroom hhours rfl
  have htemp : roomTemperatureOf s.cfg s.freeCtr f.data = room ∧
      (s.st.extTempMode || signedPath s.cfg s.freeCtr f.data) = ext := by
    rcases hroom with ⟨e, he, hne, rfl, rfl⟩ | ⟨hzero, rfl, rfl⟩
    · rw [roomTemperatureOf_signed he hne, signedHalf_eq, signedPath_iff.mpr ⟨e, he, hne⟩, Bool.or_true]
      exact ⟨rfl, rfl⟩
    · rw [roomTemperatureOf, signedPath_eq_false hzero, Bool.or_false]
      exact ⟨rfl, rfl⟩
  have hruntime : runtimeOf s.cfg s.freeCtr f.data s.st.status.runtimeHours = hours := by
    rcases hhours with ⟨x, y, z, hx, hy, hz, rfl⟩ | ⟨habsent, rfl⟩
    · exact runtimeOf_present hx hy hz _
    · exact runtimeOf_absent habsent _
  obtain ⟨rfl, rfl⟩ := htemp
  subst hruntime
  exact ⟨fun hshort => exec_fRoomtemp_of_eq (applyRoomtemp_of_short hshort),
    fun hlong => exec_fRoomtemp_of_eq (applyRoomtemp_of_long hlong)⟩

/-! ### F_STATUS (41 R152) -/

section
variable {c : Config} {n : Nat} {data : List Byte}

theorem word16Of_present {i : Nat} {x y : Byte} (hx : data[i]? = some x) (hy : data[i + 1]? = some y) (d : Nat) (old : Int) :
    word16Of c n data i d old = fxUnsigned c (be16 x y) d := by
  have hlt : i + 1 < data.length := (List.getElem?_eq_some_iff.mp hy).1
  rw [word16Of, if_pos hlt, dataAt_of_getElem? hx, dataAt_of_getElem? hy]

theorem word16Of_absent {i : Nat} (h : data.length ≤ i + 1) (d : Nat) (old : Int) : word16Of c n data i d old = old :=
  if_neg h.not_gt

/-- 41 R152: the two cases of a two-byte field together. -/
theorem word16Of_eq {i d : Nat} {old v : Int}
    (h : (∃ x y, data[i]? = some x ∧ data[i + 1]? = some y ∧ v = fxUnsigned c (x.toNat * 256 + y.toNat) d) ∨
      (data.length ≤ i + 1 ∧ v = old)) : word16Of c n data i d old = v := by
  rcases h with ⟨x, y, hx, hy, rfl⟩ | ⟨habsent, rfl⟩
  · exact word16Of_present hx hy d old
  · exact word16Of_absent habsent d v

end

section
variable {s : State} {data : List Byte}

theorem applyStatus_of_short (h : data.length < s.cfg.pmap.staMinLen) : applyStatus data s = s := if_pos h

theorem applyStatus_of_long (h : s.cfg.pmap.staMinLen ≤ data.length) :
    applyStatus data s =
      { s with
        st := { s.st with status := statusOf s.cfg s.freeCtr data s.st.status }
        out := s.out ++
          if statusEqual s.cfg s.st.status (statusOf s.cfg s.freeCtr data s.st.status) then [] else [.statusChanged]
        freeCtr := s.freeCtr + 1 } :=
  (if_neg h.not_gt).trans (State.notifyStatus_eq _ _)

end

/-- Settles O17: the two-byte fields are taken or kept (`word16Of_eq`), the rest is `statusOf` itself. -/
theorem statusFrame : Obligations.StatusFrame := by
  refine ⟨fun c a b => statusEqual_iff, ?_⟩
  rintro s f now power energy status hpower henergy rfl
  obtain rfl := word16Of_eq (n := s.freeCtr) hpower
  obtain rfl := word16Of_eq (n := s.freeCtr) henergy
  exact ⟨fun hshort => exec_fStatus_of_eq (applyStatus_of_short hshort),
    fun hlong => exec_fStatus_of_eq (applyStatus_of_long hlong)⟩

/-! ### F_TIMERS, F_FUNC_LO, F_FUNC_HI (41 R150, R155, R156) -/

/-- The `count` bytes from `base` on are data bytes, every other byte is as before. -/
theorem memRead_writeAll_dataSlice {m : Memory} (hwf : m.wf = true) (base n : Nat) (data : List Byte) (first count a : Nat) :
    memRead (memWriteAll m base (dataSlice n data first count)) a =
      if base ≤ a ∧ a < base + count then dataAt n data (first + (a - base)) else memRead m a := by
  rw [memRead_writeAll hwf]
  by_cases hlo : base ≤ a
  · by_cases hhi : a - base < count
    · have hin : base ≤ a ∧ a < base + count := by omega
      rw [if_pos hlo, if_pos hin, List.getD_eq_getElem _ _ (by simpa using hhi)]
      simp [dataSlice]
    · have hout : ¬ (base ≤ a ∧ a < base + count) := by omega
      rw [if_pos hlo, if_neg hout, List.getD_eq_default _ _ (by simpa using hhi)]
  · rw [if_neg hlo, if_neg fun hin => hlo hin.1]

section
variable {s : State} {data : List Byte}

theorem applyTimers_of_short (h : data.length < s.cfg.pmap.tmMinLen) : applyTimers data s = s := if_pos h

theorem applyTimers_of_long (h : s.cfg.pmap.tmMinLen ≤ data.length) :
    applyTimers data s =
      { s with
        st := { s.st with
          timerRaw := memWriteAll s.st.timerRaw 0 (dataSlice s.freeCtr data s.cfg.pmap.tmFirst timerBytes) }
        freeCtr := s.freeCtr + 1 } := if_neg h.not_gt

theorem applyFunc_of_short (base : Nat) (h : data.length < s.cfg.pmap.fnMinLen) : applyFunc base data s = s := if_pos h

theorem applyFunc_of_long (base : Nat) (h : s.cfg.pmap.fnMinLen ≤ data.length) :
    applyFunc base data s =
      { s with
        st := { s.st with
          func := memWriteAll s.st.func base (dataSlice s.freeCtr data s.cfg.pmap.fnFirst funcHalf) }
        freeCtr := s.freeCtr + 1 } := if_neg h.not_gt

end

/-- Settles O18: the five bytes are those of `memRead_writeAll_dataSlice` from address 0 on. -/
theorem timersFrameStoresFiveBytes : Obligations.TimersFrameStoresFiveBytes := by
  intro s f now hwf
  refine ⟨fun hshort => exec_fTimers_of_eq (applyTimers_of_short hshort),
    fun hlong => ⟨_, exec_fTimers_of_eq (applyTimers_of_long hlong), fun a => ?_⟩⟩
  simp [memRead_writeAll_dataSlice hwf]

/-- Settles O19: the halves are those of `memRead_writeAll_dataSlice` from addresses 0 and 15 on. -/
theorem functionTableFramesStoreAHalf : Obligations.FunctionTableFramesStoreAHalf := by
  intro s f now hwf
  refine ⟨fun hshort => ⟨exec_fFuncLo_of_eq (applyFunc_of_short 0 hshort),
      exec_fFuncHi_of_eq (applyFunc_of_short funcHalf hshort)⟩,
    fun hlong => ⟨_, exec_fFuncLo_of_eq (applyFunc_of_long 0 hlong), fun a => ?lo⟩,
    fun hlong => ⟨_, exec_fFuncHi_of_eq (applyFunc_of_long funcHalf hlong), fun a => ?hi⟩⟩
  case lo => simp [memRead_writeAll_dataSlice hwf]
  case hi => exact memRead_writeAll_dataSlice hwf funcHalf _ _ _ funcHalf a

/-! ### F_STANDBY, F_CONN_A, F_CONN_B (41 R154, R157) -/

/-- Settles O20: the row's meaning is the notification alone. -/
theorem standbyFrameOnlyNotifies : Obligations.StandbyFrameOnlyNotifies := fun _ _ _ => rfl

/-- Settles O21: the meaning of both rows is `State.setConnected`. -/
theorem connectFramesMarkTheLink : Obligations.ConnectFramesMarkTheLink := fun _ _ _ => ⟨rfl, rfl⟩

end Sys2Proof.Machine
end

section
/-! PROOFS. 41_frame_dispatch_and_store.md R144, R160 to R168: the difference masks (DifferenceMaskBits), F_ACK, which leaves
them zero (AckMergesWantIntoCurrent), the setters (SymbolicSettersResolveOrFallBack, SetTemperatureStoresItsOperand) and
LINK_DOWN (LinkDownClearsConnected). -/

namespace Sys2Proof.Machine

/-! ### The difference masks (41 R166) -/

theorem differsFrom_iff {α : Type} [DecidableEq α] {want : Option α} {cur : α} :
    differsFrom want cur = true ↔ ∃ v, want = some v ∧ v ≠ cur := by
  cases want <;> simp [differsFrom]

theorem differsTemp_iff {c : Config} {want : Option Int} {cur : Int} :
    differsTemp c want cur = true ↔ ∃ v, want = some v ∧ c.eps < ((v - cur).natAbs : Int) := by
  cases want with
  | none => simp [differsTemp]
  | some v => rw [differsTemp, Bool.not_eq_true', ← Bool.not_eq_true, near_iff]; simp

/-- The first mask bit by bit, the most significant first. -/
theorem mask1_eq_concat (c : Config) (st : Store) :
    mask1 c st = (((((0#3).concat (differsFrom st.want.vane st.cur.vane)).concat
      (differsFrom st.want.fan st.cur.fan)).concat (differsTemp c st.want.temperature st.cur.temperature)).concat
      (differsFrom st.want.mode st.cur.mode)).concat (differsFrom st.want.power st.cur.power) := rfl

theorem mask2_eq_concat (st : Store) : mask2 st = (0#7).concat (differsFrom st.want.wideVane st.cur.wideVane) := rfl

/-- Settles O49: each bit is the `differsFrom` or `differsTemp` at its place of the mask. -/
theorem differenceMaskBits : Obligations.DifferenceMaskBits := by
  intro c st
  simp only [diffMask, mask1_eq_concat, mask2_eq_concat]
  refine ⟨?power, ?mode, ?temperature, ?fan, ?vane, ?wideVane, fun k hk => ?high1, fun k hk => ?high2⟩
  case power => simpa using differsFrom_iff
  case mode => simpa using differsFrom_iff
  case temperature => simpa using differsTemp_iff
  case fan => simpa using differsFrom_iff
  case vane => simpa using differsFrom_iff
  case wideVane => simpa using differsFrom_iff
  case high1 => obtain ⟨j, rfl⟩ := Nat.exists_eq_add_of_le' hk; simp
  case high2 => obtain ⟨j, rfl⟩ := Nat.exists_eq_add_of_le' hk; simp

/-- 41 R144: nothing wanted differs from nothing. -/
theorem diffMask_of_wantedNone (c : Config) {st : Store} (h : st.want = wantedNone) : diffMask c st = (0x00#8, 0x00#8) := by
  simp only [diffMask, mask1_eq_concat, mask2_eq_concat, h, wantedNone, differsFrom, differsTemp]
  decide

/-! ### F_ACK (41 R144) -/

/-- Field by field: a wanted value, or the current one. -/
theorem mergeWanted_eq_ackedSettings (st : Store) : mergeWanted st.cur st.want = ackedSettings st := by
  unfold mergeWanted
  congr 1 <;> split <;> simp [*]

theorem applyAck_eq (s : State) :
    applyAck s =
      { s with
        st := { s.st with cur := ackedSettings s.st, want := wantedNone }
        out := s.out ++ if settingsEqual s.cfg s.st.cur (ackedSettings s.st) then [] else [.settingsChanged] } := by
  rw [applyAck, State.notifySettings_eq, mergeWanted_eq_ackedSettings]
  cases settingsEqual s.cfg s.st.cur (ackedSettings s.st) <;> rfl

/-- Settles O12: the row's meaning is `applyAck`, and with `want` cleared no bit of the masks is set. -/
theorem ackMergesWantIntoCurrent : Obligations.AckMergesWantIntoCurrent := fun s _ _ =>
  ⟨congrArg Host.Outcome.next (applyAck_eq s), diffMask_of_wantedNone s.cfg rfl⟩

/-! ### The setters and LINK_DOWN (41 R160 to R167) -/

/-- 41 R160, 60 R275: what a symbolic setter of `n` symbols does, whichever field it writes. -/
theorem checkSym_setWant_eq (s : State) (field n : Nat) (sym : Byte) (want : Wanted) :
    (s.checkSym field n sym).setWant want field (resolveSym n sym) =
      { s with
        st := { s.st with want := want }
        out := s.out ++ if sym.toNat < n then [.setterResult field sym.toNat]
          else [.err 5 (field * 256 + sym.toNat), .setterResult field 0] } := by
  by_cases h : sym.toNat < n
  · simp [State.checkSym, symResolves, resolveSym, State.setWant, State.emit, h]
  · simp [State.checkSym, symResolves, resolveSym, State.setWant, State.raise, State.emit, ErrKind.code, h]

/-- 10 R24: the value stored for an index has that index. -/
theorem powerOfIdx_idx : ∀ i, i < 2 → (powerOfIdx i).idx = i := by decide
theorem modeOfIdx_idx : ∀ i, i < 5 → (modeOfIdx i).idx = i := by decide
theorem fin6OfIdx_val {i : Nat} (h : i < 6) : (fin6OfIdx i).val = i := by rw [fin6OfIdx, dif_pos h]
theorem fin7OfIdx_val {i : Nat} (h : i < 7) : (fin7OfIdx i).val = i := by rw [fin7OfIdx, dif_pos h]

/-- Settles O43: each setter is `checkSym_setWant_eq` for its field and number of symbols. -/
theorem symbolicSettersResolveOrFallBack : Obligations.SymbolicSettersResolveOrFallBack :=
  ⟨powerOfIdx_idx, modeOfIdx_idx, fun _ => fin6OfIdx_val, fun _ => fin7OfIdx_val, fun s sym _ =>
    ⟨congrArg Host.Outcome.next (checkSym_setWant_eq s fieldPower 2 sym _),
      congrArg Host.Outcome.next (checkSym_setWant_eq s fieldMode 5 sym _),
      congrArg Host.Outcome.next (checkSym_setWant_eq s fieldFan 6 sym _),
      congrArg Host.Outcome.next (checkSym_setWant_eq s fieldVane 7 sym _),
      congrArg Host.Outcome.next (checkSym_setWant_eq s fieldWideVane 7 sym _)⟩⟩

/-- Settles O44: the row's meaning is `State.setWant` of the operand. -/
theorem setTemperatureStoresItsOperand : Obligations.SetTemperatureStoresItsOperand := fun _ _ _ => rfl

/-- Settles O45: the row's meaning is `State.setConnected` and `State.raise`. -/
theorem linkDownClearsConnected : Obligations.LinkDownClearsConnected := fun _ _ => rfl

end Sys2Proof.Machine
end

section
/-! PROOFS. 42_request_scheduler.md R181 to R190: the scan (ScanSendsTheFirstSendable), the response
(ResponseIsMarkedAndMovesOn), the timeout of a pending timer (TimeoutOfAPendingTimer) and START_CYCLE
(StartCycleScansUnlessInFlight). -/

namespace Sys2Proof.Machine

/-! ### One entry of the request table -/

section
variable {s : State} {i : Nat} {q : ReqCfg} {r : ReqState}

theorem State.updReq_eq_set (f : ReqState → ReqState) (hr : s.sch[i]? = some r) :
    s.updReq i f = { s with sch := s.sch.set i (f r) } := by
  rw [State.updReq, List.modify_eq_set_getElem?, hr]
  rfl

theorem State.awaitingAt_eq (hr : s.sch[i]? = some r) : s.awaitingAt i = r.awaiting := by
  rw [State.awaitingAt, hr]

/-- 42 R185: the matching entry is in flight no more, its `on_response` has run, and RESP_SEEN is emitted. -/
theorem markResponseSeen_eq (code : Byte) (hq : s.cfg.req[i]? = some q) (hr : s.sch[i]? = some r) :
    markResponseSeen i code s =
      { s with
        sch := s.sch.set i { r with awaiting := false, failures := 0x00#8 }
        st := onResponseOf s.cfg q.onResponse s.st
        out := s.out ++ [.respSeen code] } := by
  rw [markResponseSeen, State.updReq_eq_set _ hr, hq]
  rfl

/-- 42 R184: the entry, the timer and the two events of a request that is sent. -/
theorem sendReq_eq (now : Time) (hr : s.sch[i]? = some r) :
    sendReq i q now s =
      { s with
        sch := s.sch.set i { r with awaiting := true, lastSentAt := now }
        timers := s.timers ++ [⟨q.code, now, q.softTimeoutMs⟩]
        out := s.out ++ [.txRequest q.code, .armTimer q.code q.softTimeoutMs] } := by
  rw [sendReq, State.updReq_eq_set (s := s.emit (.txRequest q.code)) _ hr]
  simp [State.emit, State.armTimer, ReqState.sent]

end

/-! ### The scan (42 R181 to R184) -/

section
variable {c : Config} {s : State} {prev : Byte} {now : Time} {start i : Nat} {q : ReqCfg} {r : ReqState}

/-- R181: the sentinel is no code, and the scan after it starts at the head. -/
theorem startIndex_sentinel (c : Config) : startIndex c 0x00#8 = 0 := rfl

theorem startIndex_of_unknown {code : Byte} (h : ∀ q ∈ c.req, q.code ≠ code) : startIndex c code = 0 := by
  rw [startIndex, findReq_eq_none h, ite_self]

/-- R181: no code of a well-formed configuration is the sentinel. -/
theorem reqCode_ne_sentinel (hw : reqCodesWf c = true) (hq : c.req[i]? = some q) : q.code ≠ 0x00#8 := by
  simp only [reqCodesWf, Bool.and_eq_true, List.all_eq_true, decide_eq_true_eq] at hw
  obtain ⟨hne, -⟩ := hw
  exact hne q (List.mem_of_getElem? hq)

theorem startIndex_of_getElem (hw : reqCodesWf c = true) (hq : c.req[i]? = some q) : startIndex c q.code = i + 1 := by
  rw [startIndex, if_neg (reqCode_ne_sentinel hw hq), findReq_of_getElem hw hq]

/-- R182: what the scan asks of a request. -/
theorem sendable_iff : sendable s now i = true ↔
    ∃ q r, s.cfg.req[i]? = some q ∧ s.sch[i]? = some r ∧ r.disabled = false ∧ canSendHolds q.canSend s.st = true ∧
      q.minIntervalMs.toNat ≤ (now - r.lastSentAt).toNat := by
  unfold sendable
  cases s.cfg.req[i]? with
  | none => simp
  | some q =>
    cases s.sch[i]? with
    | none => simp
    | some r => simp [and_assoc]

/-- R182: the converse of `scanFrom_eq_some`. -/
theorem scanFrom_of_first (hlt : i < s.cfg.req.length) (hle : start ≤ i) (hsend : sendable s now i = true)
    (hbefore : ∀ j, start ≤ j → j < i → sendable s now j = false) : scanFrom s now start = some i := by
  cases h : scanFrom s now start with
  | none => simp [scanFrom_eq_none h i hle hlt] at hsend
  | some k =>
    obtain ⟨hk, -, hsendk, hbeforek⟩ := scanFrom_eq_some h
    rcases Nat.lt_trichotomy k i with hki | rfl | hik
    · simp [hbefore k hk hki] at hsendk
    · rfl
    · simp [hbeforek i hle hik] at hsend

/-- R183: the converse of `scanFrom_eq_none`. -/
theorem scanFrom_of_none_sendable (h : ∀ j, start ≤ j → j < s.cfg.req.length → sendable s now j = false) :
    scanFrom s now start = none := by
  cases hscan : scanFrom s now start with
  | none => rfl
  | some k =>
    obtain ⟨hk, hlt, hsend, -⟩ := scanFrom_eq_some hscan
    simp [h k hk hlt] at hsend

theorem sendNextAfter_of_scan_some (hscan : scanFrom s now (startIndex s.cfg prev) = some i)
    (hq : s.cfg.req[i]? = some q) : sendNextAfter prev now s = sendReq i q now s := by
  simp only [sendNextAfter, hscan, hq]

theorem sendNextAfter_of_scan_none (hscan : scanFrom s now (startIndex s.cfg prev) = none) :
    sendNextAfter prev now s = s.emit .cycleDone := by
  rw [sendNextAfter, hscan]

end

/-- Settles O23: the scan answers the first sendable index (`scanFrom_of_first`), which `sendReq_eq` sends, or none. -/
theorem scanSendsTheFirstSendable : Obligations.ScanSendsTheFirstSendable := by
  refine ⟨fun _ => ⟨rfl, rfl⟩, fun _ _ => startIndex_of_unknown, startIndex_sentinel, fun _ _ _ => startIndex_of_getElem,
    fun _ _ _ => sendable_iff, ?first,
    fun _ _ _ hnone => sendNextAfter_of_scan_none (scanFrom_of_none_sendable hnone)⟩
  case first =>
    intro s prev now i q r hq hr hle hsend hbefore
    have hlt : i < s.cfg.req.length := (List.getElem?_eq_some_iff.mp hq).1
    rw [sendNextAfter_of_scan_some (scanFrom_of_first hlt hle hsend hbefore) hq, sendReq_eq now hr]

/-! ### The response (42 R185, R188) -/

section
variable {s : State} {code : Byte} {i : Nat}

theorem processResponse_of_unknown (now : Time) (h : findReq s.cfg code = none) : processResponse code now s = s := by
  rw [processResponse, h]

theorem processResponse_of_found (now : Time) (h : findReq s.cfg code = some i) :
    processResponse code now s =
      if s.awaitingAt i then sendNextAfter code now (markResponseSeen i code s) else markResponseSeen i code s := by
  rw [processResponse, h]

end

/-- Settles O22: the entry with the code is marked (`markResponseSeen_eq`), and whether it was in flight decides the rest. -/
theorem responseIsMarkedAndMovesOn : Obligations.ResponseIsMarkedAndMovesOn := by
  refine ⟨fun _ _ => rfl, fun s code now hunknown => processResponse_of_unknown now (findReq_eq_none hunknown), ?_⟩
  rintro s m code now i q r hw hq rfl hr rfl
  rw [processResponse_of_found now (findReq_of_getElem hw hq), State.awaitingAt_eq hr, markResponseSeen_eq q.code hq hr]
  exact ⟨fun hawaiting => if_pos hawaiting, fun hidle => if_neg (Bool.eq_false_iff.mp hidle)⟩

/-! ### The timeout (42 R186, R187) -/

section
variable {s : State} {code : Byte} {i : Nat} {q : ReqCfg} {r : ReqState}

/-- R186: the entry that goes is the first of its code. -/
theorem dropTimer_eq {pre post : List Timer} {tm : Timer} (htimers : s.timers = pre ++ tm :: post) (hcode : tm.code = code)
    (hpre : ∀ x ∈ pre, x.code ≠ code) : s.dropTimer code = { s with timers := pre ++ post } := by
  have herase : s.timers.eraseP (fun t => decide (t.code = code)) = pre ++ post := by
    rw [htimers, List.eraseP_append_right _ (by simpa using hpre), List.eraseP_cons_of_pos (by simpa using hcode)]
  rw [State.dropTimer, herase]

/-- R186, R187: TIMEOUT is the removal and then R187. -/
theorem exec_timeout_of_dropTimer {t : State} {now : Time} (h : s.dropTimer code = t) :
    exec (.timeout code now) s = .next (timeoutEffect code now t) := h ▸ rfl

theorem timeoutEffect_of_unknown (now : Time) (h : findReq s.cfg code = none) : timeoutEffect code now s = s := by
  rw [timeoutEffect, h]

theorem timeoutEffect_of_idle (now : Time) (h : findReq s.cfg code = some i) (hr : s.sch[i]? = some r)
    (hidle : r.awaiting = false) : timeoutEffect code now s = s := by
  simp [timeoutEffect, h, State.awaitingAt_eq hr, hidle]

/-- R187: the entry after a failure that the counter can still hold. -/
theorem ReqState.timedOut_eq (maxFailures : BitVec 8) (h : r.failures.toNat < 255) :
    r.timedOut maxFailures =
      ⟨r.disabled || decide (maxFailures.toNat ≤ r.failures.toNat + 1), false, r.failures + 1#8, r.lastSentAt⟩ := by
  have hadd : (r.failures + 1#8).toNat = r.failures.toNat + 1 := by bv_omega
  rw [ReqState.timedOut, hadd]

/-- R187: the failure of a request in flight. -/
theorem timeoutEffect_of_awaiting (now : Time) (h : findReq s.cfg code = some i) (hq : s.cfg.req[i]? = some q)
    (hr : s.sch[i]? = some r) (hawaiting : r.awaiting = true) (hfail : r.failures.toNat < 255) :
    timeoutEffect code now s =
      sendNextAfter code now
        { s with
          out := s.out ++ [.err 4 code.toNat]
          sch := s.sch.set i
            ⟨r.disabled || decide (q.maxFailures.toNat ≤ r.failures.toNat + 1), false, r.failures + 1#8,
              r.lastSentAt⟩ } := by
  have hentry : (s.raise .nonResponse code.toNat).sch[i]? = some r := hr
  simp only [timeoutEffect, h, State.awaitingAt_eq hr, hawaiting, if_true, hq, State.updReq_eq_set _ hentry,
    ReqState.timedOut_eq _ hfail]
  rfl

end

/-- Settles O25: the removal is `dropTimer_eq`, and R187 for the three kinds of code is `timeoutEffect_of_unknown`,
`timeoutEffect_of_idle` and `timeoutEffect_of_awaiting`. -/
theorem timeoutOfAPendingTimer : Obligations.TimeoutOfAPendingTimer := by
  intro s code now pre post tm htimers hcode hpre
  rw [exec_timeout_of_dropTimer (dropTimer_eq htimers hcode hpre)]
  refine ⟨fun hunknown => congrArg Host.Outcome.next (timeoutEffect_of_unknown now (findReq_eq_none hunknown)), ?_⟩
  rintro i q r hw hq rfl hr
  have hfind : findReq s.cfg q.code = some i := findReq_of_getElem hw hq
  exact ⟨fun hidle => congrArg Host.Outcome.next (timeoutEffect_of_idle now hfind hr hidle),
    fun hawaiting hfail => congrArg Host.Outcome.next (timeoutEffect_of_awaiting now hfind hq hr hawaiting hfail)⟩

/-! ### START_CYCLE (42 R190) -/

theorem State.anyAwaiting_iff {s : State} : s.anyAwaiting = true ↔ ∃ r ∈ s.sch, r.awaiting = true := List.any_eq_true

theorem State.anyAwaiting_eq_false_iff {s : State} : s.anyAwaiting = false ↔ ∀ r ∈ s.sch, r.awaiting = false := by
  simp [State.anyAwaiting]

theorem exec_startCycle (now : Time) (s : State) :
    exec (.startCycle now) s = .next (if s.anyAwaiting then s else sendNextAfter 0x00#8 now s) := rfl

/-- Settles O24: whether the table has a request in flight (`State.anyAwaiting_iff`) decides the row's meaning. -/
theorem startCycleScansUnlessInFlight : Obligations.StartCycleScansUnlessInFlight := by
  intro s now
  rw [exec_startCycle]
  refine ⟨fun hflight => ?inFlight, fun hidle => ?idle⟩
  case inFlight => rw [if_pos (State.anyAwaiting_iff.mpr hflight)]
  case idle => simp [State.anyAwaiting_eq_false_iff.mpr hidle]

end Sys2Proof.Machine
end

section
/-! PROOFS. 43_hysteresis_gate.md R210 to R218: the gate's answer (GateAnswers), the throttle and what a toggle does
(ToggleActsOnTheAnswer), that a TICK flips the loop exactly on an accepted toggle (TickFlipsTheLoopOnAnAcceptedToggle), and
that no TICK asks for a toggle twice (ToggleIsIdempotent). -/

namespace Sys2Proof.Machine

/-! ### The gate (43 R210 to R213) -/

section
variable {c : Config} {m : Mode} {active : Bool} {cur tgt delta : Int}

theorem gateDecision_inactive (c : Config) (delta : Int) :
    gateDecision c false delta = if c.hystOnThr < fxSub c 0 delta then .turnOn else .noOp := by
  simp [gateDecision]

theorem gateDecision_active (c : Config) (delta : Int) :
    gateDecision c true delta = if c.hystOffThr < delta then .turnOff else .noOp := by
  simp [gateDecision]

/-- R211, R213: one difference of the temperatures decides, whatever the state of the loop, or the mode has no gate. -/
theorem gate_cases (c : Config) (m : Mode) (cur tgt : Int) :
    (∃ delta, ∀ active, gate c m active cur tgt = gateDecision c active delta) ∨
    ∀ active, gate c m active cur tgt = .noOp := by
  cases m with
  | heat => exact .inl ⟨fxSub c cur tgt, fun _ => rfl⟩
  | cool => exact .inl ⟨fxSub c tgt cur, fun _ => rfl⟩
  | dry | fan | auto => exact .inr fun _ => rfl

/-- 00 R8: the two thresholds are not negative. -/
theorem configWf_hyst_nonneg (hc : configWf c = true) : 0 ≤ c.hystOnThr ∧ 0 ≤ c.hystOffThr := by
  simp only [configWf, signsWf, Bool.and_eq_true, decide_eq_true_eq] at hc
  tauto

/-- 00 R12: saturation does not make a negation positive. -/
theorem neg_of_fxSub_zero_pos (h : 0 < fxSub c 0 delta) : delta < 0 := by
  have hmin := fxMin_neg c
  simp only [fxSub, sat, clamp] at h
  omega

/-- 43 R217: no difference of the temperatures exceeds both thresholds, so at most one state of the loop asks for a toggle. -/
theorem gateDecision_noOp_or_noOp (hc : configWf c = true) (delta : Int) :
    gateDecision c true delta = .noOp ∨ gateDecision c false delta = .noOp := by
  obtain ⟨hon, hoff⟩ := configWf_hyst_nonneg hc
  by_cases hlow : c.hystOnThr < fxSub c 0 delta
  case pos =>
    have hneg : delta < 0 := neg_of_fxSub_zero_pos (hon.trans_lt hlow)
    exact .inl (by rw [gateDecision_active, if_neg (by omega)])
  case neg => exact .inr (by rw [gateDecision_inactive, if_neg hlow])

/-- 43 R217: where the gate asks for a toggle in one state of the loop, it asks for none in the other. -/
theorem gate_opposite_eq_noOp (hc : configWf c = true) (h : gate c m active cur tgt ≠ .noOp) :
    gate c m (!active) cur tgt = .noOp := by
  rcases gate_cases c m cur tgt with ⟨delta, hdelta⟩ | hnone
  case inr => exact hnone _
  case inl =>
    rw [hdelta] at h ⊢
    cases active with
    | true => exact (gateDecision_noOp_or_noOp hc delta).resolve_left h
    | false => exact (gateDecision_noOp_or_noOp hc delta).resolve_right h

end

/-- Settles O30: in HEAT and COOL the gate is `gateDecision` of the difference, by the state of the loop; in any other mode it
is `no_op` by definition. -/
theorem gateAnswers : Obligations.GateAnswers := by
  intro c active cur tgt delta mode
  refine ⟨fun hdelta => ?directed, ?undirected⟩
  case directed =>
    have hgate : gate c mode active cur tgt = gateDecision c active delta := by
      rcases hdelta with ⟨rfl, rfl⟩ | ⟨rfl, rfl⟩ <;> rfl
    rw [hgate]
    refine ⟨?_, ?_, ?_, ?_⟩ <;> rintro rfl h
    · rw [gateDecision_inactive, if_pos h]
    · rw [gateDecision_inactive, if_neg h.not_gt]
    · rw [gateDecision_active, if_pos h]
    · rw [gateDecision_active, if_neg h.not_gt]
  case undirected => rintro (rfl | rfl | rfl) <;> rfl

/-! ### The toggle (43 R214, R215) -/

section
variable {s : State} {now : Time} {g : GateAnswer}

theorem throttleOk_iff : throttleOk now s = true ↔ s.cfg.toggleMinMs.toNat ≤ (now - s.st.lastToggleAt).toNat := by
  simp [throttleOk]

theorem throttleOk_eq_false_iff :
    throttleOk now s = false ↔ (now - s.st.lastToggleAt).toNat < s.cfg.toggleMinMs.toNat := by
  simp [throttleOk]

theorem toggle_of_throttled (hg : g ≠ .noOp) (h : throttleOk now s = false) :
    toggle g now s = s.emit (.toggleDeferred g) := by
  cases g with
  | noOp => exact absurd rfl hg
  | turnOn | turnOff => simp [toggle, h]

/-- A request that is not accepted touches neither the loop nor the Store. -/
theorem toggle_of_not_accepted (h : g = .noOp ∨ throttleOk now s = false) :
    (toggle g now s).loop = s.loop ∧ (toggle g now s).st = s.st := by
  by_cases hg : g = .noOp
  case pos => subst hg; exact ⟨rfl, rfl⟩
  case neg => rw [toggle_of_throttled hg (h.resolve_left hg)]; exact ⟨rfl, rfl⟩

theorem toggle_turnOn_of_throttleOk (h : throttleOk now s = true) : toggle .turnOn now s = toggleOn now s := if_pos h

theorem toggle_turnOff_of_throttleOk (h : throttleOk now s = true) : toggle .turnOff now s = toggleOff now s := if_pos h

@[simp] theorem disableEvent_active (c : Config) (l : Loop) : (disableEvent c l).active = l.active := by
  simp only [disableEvent]
  split <;> rfl

@[simp] theorem disableEvent_target (c : Config) (l : Loop) : (disableEvent c l).target = l.target := by
  simp only [disableEvent]
  split <;> rfl

/-- 44 R243, R244: a disable event leaves the target, from which the restart takes `prev_error`. -/
theorem onFlip_disableEvent (c : Config) (room : Int) (now : Time) (l : Loop) :
    onFlip c room now (disableEvent c l) =
      { disableEvent c l with
        integral := 0, prevError := fxSub c l.target room, restartAt := now, lastAdaptAt := now } := by
  rw [← disableEvent_target c l]
  rfl

@[simp] theorem toggle_target (g : GateAnswer) (now : Time) (s : State) : (toggle g now s).loop.target = s.loop.target := by
  rcases toggle_cases g now s with ⟨-, e⟩ | ⟨-, -, e⟩ | ⟨-, -, e⟩ | ⟨-, -, e⟩ <;> rw [e]
  case inr.inr.inr => exact disableEvent_target s.cfg _
  all_goals rfl

@[simp] theorem toggle_modeNow (g : GateAnswer) (now : Time) (s : State) :
    (toggle g now s).st.modeNow = s.st.modeNow := by
  rcases toggle_cases g now s with ⟨-, e⟩ | ⟨-, -, e⟩ | ⟨-, -, e⟩ | ⟨-, -, e⟩ <;> rw [e] <;> rfl

@[simp] theorem toggle_status (g : GateAnswer) (now : Time) (s : State) : (toggle g now s).st.status = s.st.status := by
  rcases toggle_cases g now s with ⟨-, e⟩ | ⟨-, -, e⟩ | ⟨-, -, e⟩ | ⟨-, -, e⟩ <;> rw [e] <;> rfl

end

/-- Settles O31: a deferred request is `toggle_of_throttled`, an accepted one `toggleOn` or `toggleOff` written
out, the restart after a disable event by `onFlip_disableEvent`. -/
theorem toggleActsOnTheAnswer : Obligations.ToggleActsOnTheAnswer := by
  intro s now
  refine ⟨rfl, fun hearly => ?deferred, fun hlate => ?accepted⟩
  case deferred =>
    have hthrottle := throttleOk_eq_false_iff.mpr hearly
    exact ⟨toggle_of_throttled (by decide) hthrottle, toggle_of_throttled (by decide) hthrottle⟩
  case accepted =>
    have hthrottle := throttleOk_iff.mpr hlate
    refine ⟨toggle_turnOn_of_throttleOk hthrottle, ?_⟩
    rw [toggle_turnOff_of_throttleOk hthrottle, toggleOff, onFlip_disableEvent]
    rfl

/-! ### What a TICK does beside the toggle (44 R230) -/

/-- What all of a TICK but its toggle makes of `s`: what the gate reads, and what a toggle writes, is as it was, and all that is
emitted is NumericFault. -/
structure State.Untoggled (s t : State) : Prop where
  cfg : t.cfg = s.cfg
  mode : t.st.modeNow = s.st.modeNow
  roomTemperature : t.st.status.roomTemperature = s.st.status.roomTemperature
  target : t.loop.target = s.loop.target
  active : t.loop.active = s.loop.active
  restartAt : t.loop.restartAt = s.loop.restartAt
  power : t.st.want.power = s.st.want.power
  lastToggleAt : t.st.lastToggleAt = s.st.lastToggleAt
  out : ∃ es, t.out = s.out ++ es ∧ ∀ e ∈ es, ∃ k, e = .err 6 k

section
variable {s t u : State}

theorem State.Untoggled.trans (h : s.Untoggled t) (h' : t.Untoggled u) : s.Untoggled u where
  cfg := h'.cfg.trans h.cfg
  mode := h'.mode.trans h.mode
  roomTemperature := h'.roomTemperature.trans h.roomTemperature
  target := h'.target.trans h.target
  active := h'.active.trans h.active
  restartAt := h'.restartAt.trans h.restartAt
  power := h'.power.trans h.power
  lastToggleAt := h'.lastToggleAt.trans h.lastToggleAt
  out := by
    obtain ⟨es, hes, hfaults⟩ := h.out
    obtain ⟨es', hes', hfaults'⟩ := h'.out
    refine ⟨es ++ es', by rw [hes', hes, List.append_assoc], fun e he => ?_⟩
    exact (List.mem_append.mp he).elim (hfaults e) (hfaults' e)

/-- A step of the loop alone. -/
theorem untoggled_of_loop {l : Loop} (htarget : l.target = s.loop.target) (hactive : l.active = s.loop.active)
    (hrestart : l.restartAt = s.loop.restartAt) : s.Untoggled { s with loop := l } :=
  ⟨rfl, rfl, rfl, htarget, hactive, hrestart, rfl, rfl, [], by simp⟩

theorem State.Untoggled.refl (s : State) : s.Untoggled s := untoggled_of_loop rfl rfl rfl

theorem State.Untoggled.gateNow_eq (h : s.Untoggled t) : gateNow t = gateNow s := by
  rw [gateNow, h.cfg, h.mode, h.active, h.roomTemperature, h.target]

theorem State.Untoggled.throttleOk_eq (h : s.Untoggled t) (now : Time) : throttleOk now t = throttleOk now s := by
  rw [throttleOk, h.cfg, h.lastToggleAt, throttleOk]

/-- 44 R232: the direction is no part of what the gate reads. -/
theorem updateDirection_untoggled (m : Mode) (s : State) :
    s.Untoggled { s with loop := updateDirection s.cfg m s.loop } := by
  rcases updateDirection_cases s.cfg m s.loop with e | ⟨heating, e⟩ <;> rw [e]
  · exact .refl s
  · exact untoggled_of_loop rfl rfl rfl

/-- 60 R276: the fault of a gain's step. -/
theorem gainFault_untoggled (k : Nat) (fault : Bool) (s : State) : s.Untoggled (s.gainFault k fault) := by
  cases fault with
  | false => exact .refl s
  | true => exact ⟨rfl, rfl, rfl, rfl, rfl, rfl, rfl, rfl, [.err 6 k], rfl, by simp⟩

/-- 44 R250: adaptation moves the gains and can raise their faults. -/
theorem adapt_untoggled (now : Time) (s : State) : s.Untoggled (adapt now s) := by
  simp only [adapt]
  split
  · exact .refl s
  · split
    · exact untoggled_of_loop rfl rfl rfl
    · have hgains : s.Untoggled
          { s with loop := adaptGains s.cfg (el now s.loop.lastAdaptAt) { s.loop with lastAdaptAt := now } } :=
        untoggled_of_loop rfl rfl rfl
      exact ((hgains.trans (gainFault_untoggled 0 _ _)).trans (gainFault_untoggled 1 _ _)).trans
        (gainFault_untoggled 2 _ _)

theorem pidStep_untoggled (cur : Int) (dtMs : Nat) (now : Time) (s : State) : s.Untoggled (pidStep cur dtMs now s) := by
  have heval : s.Untoggled { s with loop := s.loop.evaluated s.cfg cur dtMs } := untoggled_of_loop rfl rfl rfl
  simp only [pidStep]
  split
  · exact heval.trans (adapt_untoggled now _)
  · exact heval

theorem pidNeutral_untoggled (s : State) : s.Untoggled (pidNeutral s) := untoggled_of_loop rfl rfl rfl

/-- 44 R238: of what is wanted, the temperature alone. -/
theorem writeBack_untoggled (s : State) : s.Untoggled (writeBack s) :=
  ⟨rfl, rfl, rfl, rfl, rfl, rfl, rfl, rfl, [], by simp [writeBack]⟩

/-- 44 R230: the gate is asked on what it reads before the direction, and nothing but the toggle acts on its answer. -/
theorem control_toggles (dtMs : Nat) (now : Time) (s : State) :
    ∃ u, s.Untoggled u ∧ (toggle (gateNow s) now u).Untoggled (control dtMs now s) := by
  have hdir := updateDirection_untoggled s.st.modeNow s
  refine ⟨_, hdir, ?_⟩
  rw [← hdir.gateNow_eq]
  simp only [control]
  split
  · exact (pidStep_untoggled _ dtMs now _).trans (writeBack_untoggled _)
  · exact (pidNeutral_untoggled _).trans (writeBack_untoggled _)

/-- 44 R230, R231: a TICK with a room temperature runs the toggle on the gate's answer; one without does not ask the gate. -/
theorem tick_toggle_cases {now : Time} (h : exec (.tick now) s = .next t) :
    (s.st.haveRoomTemp = false ∧ s.Untoggled t) ∨
    (s.st.haveRoomTemp = true ∧ ∃ u, s.Untoggled u ∧ (toggle (gateNow s) now u).Untoggled t) := by
  have htime : s.Untoggled { s with loop := { s.loop with lastTickAt := now } } := untoggled_of_loop rfl rfl rfl
  cases h
  dsimp only
  split
  case isTrue hroom =>
    obtain ⟨u, hbefore, hafter⟩ :=
      control_toggles (timeStep s.cfg now s.loop.lastTickAt) now { s with loop := { s.loop with lastTickAt := now } }
    exact .inr ⟨hroom, u, htime.trans hbefore, hafter⟩
  case isFalse hroom => exact .inl ⟨by simpa using hroom, htime⟩

/-- 43 R216: a TICK with a room temperature. -/
theorem tick_toggles {now : Time} (hroom : s.st.haveRoomTemp = true) (h : exec (.tick now) s = .next t) :
    ∃ u, s.Untoggled u ∧ (toggle (gateNow s) now u).Untoggled t := by
  rcases tick_toggle_cases h with ⟨hnone, -⟩ | ⟨-, htoggles⟩
  · simp [hroom] at hnone
  · exact htoggles

/-- 43 R217: where the gate answers `no_op`, a TICK toggles nothing. -/
theorem tick_untoggled_of_noOp {now : Time} (hno : gateNow s = .noOp) (h : exec (.tick now) s = .next t) :
    s.Untoggled t := by
  rcases tick_toggle_cases h with ⟨-, hkept⟩ | ⟨-, u, hbefore, hafter⟩
  · exact hkept
  · rw [hno] at hafter
    exact hbefore.trans hafter

end

/-- Settles O32: what a TICK does beside its toggle touches none of the fields (`tick_toggles`), a request that is not accepted
touches none of them (`toggle_of_not_accepted`), and an accepted one writes them all. -/
theorem tickFlipsTheLoopOnAnAcceptedToggle : Obligations.TickFlipsTheLoopOnAnAcceptedToggle := by
  rintro s t now g hroom h (rfl : g = gateNow s)
  obtain ⟨u, hbefore, hafter⟩ := tick_toggles hroom h
  rw [← hbefore.throttleOk_eq now]
  refine ⟨fun hkept => ?kept, fun hon hok => ?on, fun hoff hok => ?off⟩
  case kept =>
    obtain ⟨hloop, hst⟩ := toggle_of_not_accepted hkept
    refine ⟨?_, ?_, ?_⟩
    · rw [hafter.active, hloop, hbefore.active]
    · rw [hafter.power, hst, hbefore.power]
    · rw [hafter.lastToggleAt, hst, hbefore.lastToggleAt]
  case on =>
    rw [hon, toggle_turnOn_of_throttleOk hok] at hafter
    exact ⟨hafter.active, hafter.power, hafter.lastToggleAt, hafter.restartAt⟩
  case off =>
    rw [hoff, toggle_turnOff_of_throttleOk hok] at hafter
    exact ⟨hafter.active.trans (disableEvent_active u.cfg _), hafter.power, hafter.lastToggleAt, hafter.restartAt⟩

/-! ### No toggle is asked for twice (43 R217) -/

section
variable {s t : State}

/-- A TICK that flips the loop was asked to, and leaves the gate with the same question about the other state of the loop. -/
theorem gateNow_of_flip {now : Time} (hc : configWf s.cfg = true) (hroom : s.st.haveRoomTemp = true)
    (h : exec (.tick now) s = .next t) (hflip : t.loop.active ≠ s.loop.active) : gateNow t = .noOp := by
  have hasked : gateNow s ≠ .noOp := fun hno => hflip (tick_untoggled_of_noOp hno h).active
  obtain ⟨u, hbefore, hafter⟩ := tick_toggles hroom h
  calc gateNow t
      = gate s.cfg s.st.modeNow t.loop.active s.st.status.roomTemperature s.loop.target := by
        rw [gateNow, hafter.cfg, hafter.mode, hafter.roomTemperature, hafter.target, toggle_cfg, toggle_modeNow,
          toggle_status, toggle_target, hbefore.cfg, hbefore.mode, hbefore.roomTemperature, hbefore.target]
    _ = gate s.cfg s.st.modeNow (!s.loop.active) s.st.status.roomTemperature s.loop.target := by
        rw [Bool.eq_not.mpr hflip]
    _ = .noOp := gate_opposite_eq_noOp hc hasked

/-- Where the gate answers `no_op`, any number of TICKs runs and toggles nothing. -/
theorem tickAt_untoggled_of_noOp (times : List Time) (hno : gateNow s = .noOp) :
    ∃ u, tickAt times s = .next u ∧ s.Untoggled u := by
  induction times generalizing s with
  | nil => exact ⟨s, rfl, .refl s⟩
  | cons now times ih =>
    obtain ⟨t, ht⟩ : ∃ t, exec (.tick now) s = .next t := ⟨_, rfl⟩
    have hkept := tick_untoggled_of_noOp hno ht
    obtain ⟨u, hu, hrest⟩ := ih (hkept.gateNow_eq.trans hno)
    exact ⟨u, (tickAt_cons ht times).trans hu, hkept.trans hrest⟩

end

/-- Settles O33: a flip leaves the gate at `no_op` (`gateNow_of_flip`), and from there every TICK leaves it there, by induction
on the times of the TICKs. -/
theorem toggleIsIdempotent : Obligations.ToggleIsIdempotent := by
  refine ⟨fun s t now hno h => ?_, fun s t now hc hroom h hflip => ?_⟩
  · have hkept := tick_untoggled_of_noOp hno h
    exact ⟨hkept.gateNow_eq.trans hno, hkept.active, hkept.out⟩
  · have hno := gateNow_of_flip hc hroom h hflip
    refine ⟨hno, fun times => ?_⟩
    obtain ⟨u, hu, hkept⟩ := tickAt_untoggled_of_noOp times hno
    exact ⟨u, hu, hkept.active, hkept.out⟩

end Sys2Proof.Machine
end

section
/-! PROOFS. 44_pid.md R230 to R256: the parts of the PID (AdjustedRangeIsOrdered, SetTargetRetargets, DisableEventShrinks,
EvaluationStep, AdaptationSchedule, GradientStepOfOneGain, GainStepIsBoundedAndCapped), the pipeline of a TICK
(TickBeforeRoomTemperature, TickWritesTheSetpointBack, DirectionFollowsTheMode, CorrectedSetpointIsBounded), and that the
fixed variant never adapts (FixedDiscreteNeverAdapts). -/

namespace Sys2Proof.Machine

/-! ### The adjusted range (44 R241, R245) -/

section
variable {c : Config}

theorem clamp_mono {x y : Int} (h : x ≤ y) (lo hi : Int) : clamp x lo hi ≤ clamp y lo hi := by
  simp only [clamp]; omega

/-- 00 R8: the two caps are not negative. -/
theorem configWf_caps_nonneg (hc : configWf c = true) : 0 ≤ c.underCap ∧ 0 ≤ c.overCap := by
  simp only [configWf, signsWf, Bool.and_eq_true, decide_eq_true_eq] at hc
  tauto

/-- 44 R241: less a cap on one side, plus a cap on the other, and both brought into the same intervals. -/
theorem adjustedRange_ordered (hc : configWf c = true) (heating : Bool) (t : Int) :
    (adjustedRange c heating t).1 ≤ (adjustedRange c heating t).2 := by
  obtain ⟨hunder, hover⟩ := configWf_caps_nonneg hc
  cases heating with
  | true => exact clamp_mono (clamp_mono (show t - c.underCap ≤ t + c.overCap by omega) _ _) _ _
  | false => exact clamp_mono (clamp_mono (show t - c.overCap ≤ t + c.underCap by omega) _ _) _ _

end

/-- Settles O36: the two directions are `adjustedRange` written out; the order is `adjustedRange_ordered`. -/
theorem adjustedRangeIsOrdered : Obligations.AdjustedRangeIsOrdered := by
  refine ⟨fun c l hheat => ?heating, fun c l hcool => ?cooling, fun c l hc => ?bounds⟩
  case heating => rw [recomputeAdjusted, hheat]; rfl
  case cooling => rw [recomputeAdjusted, hcool]; rfl
  case bounds =>
    obtain ⟨hlo, hhi, -⟩ := adjustedRange_bounds c hc l.heating l.target
    exact ⟨hlo, adjustedRange_ordered hc l.heating l.target, hhi⟩

/-- Settles O42: both branches of the event, with `retarget` written out. -/
theorem setTargetRetargets : Obligations.SetTargetRetargets := by
  rintro s arg now t rfl
  refine ⟨fun hsame => ?same, fun hother => ?other⟩
  case same => exact congrArg Host.Outcome.next (if_pos hsame)
  case other => exact congrArg Host.Outcome.next (if_neg hother)

/-! ### The disable event (44 R244) -/

/-- The count goes up to 255 and stays there. -/
theorem countDisable_eq {count n : BitVec 8} (hfull : count = 0xFF#8 → n = 0xFF#8)
    (hroom : count ≠ 0xFF#8 → n = count + 1#8) : countDisable count = n := by
  unfold countDisable
  split
  case isTrue hlt => exact (hroom (by rintro rfl; simp at hlt)).symm
  case isFalse hge =>
    have hcount : count = 0xFF#8 := by bv_omega
    rw [hcount, hfull hcount]

/-- Settles O37: the branches of `disableEvent` on the count that `countDisable_eq` gives. -/
theorem disableEventShrinks : Obligations.DisableEventShrinks := by
  intro c l n hfull hroom
  have hcount : countDisable l.disableCount = n := countDisable_eq hfull hroom
  refine ⟨fun hfew => ?few, fun hmany => ?many⟩
  case few => rw [disableEvent, hcount, if_neg (by simpa using hfew)]
  case many => rw [disableEvent, hcount, if_pos hmany]; rfl

/-! ### One evaluation (44 R233, R235 to R237) -/

/-- Settles O34: the named intermediate values are those of `evaluate`, in its order. -/
theorem evaluationStep : Obligations.EvaluationStep := by
  refine ⟨fun c now before => rfl, ?_⟩
  rintro c l cur e i d dtMs rfl rfl rfl
  rfl

/-! ### Adaptation (44 R250 to R256) -/

theorem gainFault_eq (s : State) (k : Nat) (fault : Bool) :
    s.gainFault k fault = { s with out := s.out ++ if fault then [.err 6 k] else [] } := by
  cases fault with
  | true => rfl
  | false => simp [State.gainFault]

section
variable {s : State} {now : Time}

theorem adapt_of_early (h : el now s.loop.lastAdaptAt < s.cfg.adaptIntervalMs.toNat) : adapt now s = s := if_pos h

theorem adapt_of_grace (hdue : s.cfg.adaptIntervalMs.toNat ≤ el now s.loop.lastAdaptAt)
    (hgrace : el now s.loop.restartAt < s.cfg.graceMs.toNat) :
    adapt now s = { s with loop := { s.loop with lastAdaptAt := now } } :=
  (if_neg hdue.not_gt).trans (if_pos hgrace)

theorem adapt_of_due (hdue : s.cfg.adaptIntervalMs.toNat ≤ el now s.loop.lastAdaptAt)
    (hgrace : s.cfg.graceMs.toNat ≤ el now s.loop.restartAt) :
    adapt now s =
      ((({ s with loop := adaptGains s.cfg (el now s.loop.lastAdaptAt) { s.loop with lastAdaptAt := now } }.gainFault 0
        (adaptKp s.cfg (el now s.loop.lastAdaptAt) s.loop).fault).gainFault 1
        (adaptKi s.cfg (el now s.loop.lastAdaptAt) s.loop).fault).gainFault 2
        (adaptKd s.cfg (el now s.loop.lastAdaptAt) s.loop).fault) :=
  (if_neg hdue.not_gt).trans (if_neg hgrace.not_gt)

end

/-- Settles O38: too early, in the grace period, or a step of each gain with its fault. -/
theorem adaptationSchedule : Obligations.AdaptationSchedule := by
  intro s now
  refine ⟨adapt_of_early, adapt_of_grace, ?_⟩
  rintro hdue hgrace p i d rfl rfl rfl
  rw [adapt_of_due hdue hgrace]
  simp only [gainFault_eq]
  rfl

section
variable {c : Config} {err g r lr sm gmin gmax : Int} {elMs : Nat}

/-- R254: the intermediate values, as a list. -/
def Gradient.values (q : Gradient) : List Int := [q.a1, q.a2, q.a3, q.a4, q.sNew]

theorem Gradient.finite_iff {q : Gradient} :
    q.finite c = true ↔ ∀ x ∈ q.values, fxMin c ≤ x ∧ x ≤ fxMax c := by
  simp only [Gradient.finite, Gradient.values, Bool.and_eq_true, fxInRange_iff, List.forall_mem_cons, and_assoc,
    List.not_mem_nil, false_imp_iff, implies_true, and_true]

theorem Gradient.finite_eq_false_iff {q : Gradient} :
    q.finite c = false ↔ ∃ x ∈ q.values, x < fxMin c ∨ fxMax c < x := by
  simp only [← Bool.not_eq_true, Gradient.finite_iff, not_forall, not_and_or, not_le, exists_prop]

/-- R255. -/
theorem adaptOne_of_outside (h : g < gmin ∨ gmax < g) :
    adaptOne c err elMs g r lr sm gmin gmax = ⟨midOf gmin gmax, sm, true⟩ := if_pos h

/-- R254: an intermediate value outside the Fx range: the step is ignored. -/
theorem adaptOne_of_overflow (hlo : gmin ≤ g) (hhi : g ≤ gmax) (h : (gradientOf c err r lr sm elMs).finite c = false) :
    adaptOne c err elMs g r lr sm gmin gmax = ⟨g, sm, true⟩ := by
  simp only [adaptOne, hlo.not_gt, hhi.not_gt, or_self, if_false, h, Bool.false_eq_true]

theorem adaptOne_of_finite (hlo : gmin ≤ g) (hhi : g ≤ gmax) (h : (gradientOf c err r lr sm elMs).finite c = true) :
    adaptOne c err elMs g r lr sm gmin gmax =
      ⟨capGain c g (gradientOf c err r lr sm elMs).sNew gmin gmax, (gradientOf c err r lr sm elMs).sNew, false⟩ := by
  simp only [adaptOne, hlo.not_gt, hhi.not_gt, or_self, if_false, h, if_true]

/-- R254: inside the bounds, the delta is at most `REL_CAP` of the gain's magnitude, and the clamp only shortens it. -/
theorem capGain_sub_natAbs_le (hcap : 0 ≤ c.relCap) (hscale : 0 < c.scale) (hlo : gmin ≤ g) (hhi : g ≤ gmax)
    (sNew : Int) : (capGain c g sNew gmin gmax - g).natAbs * c.scale ≤ c.relCap.natAbs * g.natAbs := by
  have hpos : (0 : Int) < c.scale := by exact_mod_cast hscale
  obtain ⟨lim, hlim⟩ : ∃ lim, lim = floorDiv (c.relCap * (g.natAbs : Int)) (scaleInt c) := ⟨_, rfl⟩
  have hdiv : lim = c.relCap * (g.natAbs : Int) / (c.scale : Int) := by
    rw [hlim]; exact Int.fdiv_eq_ediv_of_nonneg _ hpos.le
  have hnonneg : 0 ≤ lim := by rw [hdiv]; positivity
  have hmoved : ((capGain c g sNew gmin gmax - g).natAbs : Int) ≤ lim := by
    simp only [capGain, clamp, Int.ofNat_eq_natCast, ← hlim]
    omega
  have hle : ((capGain c g sNew gmin gmax - g).natAbs : Int) * c.scale ≤ (c.relCap.natAbs : Int) * g.natAbs :=
    calc ((capGain c g sNew gmin gmax - g).natAbs : Int) * c.scale
        ≤ lim * c.scale := by gcongr
      _ ≤ c.relCap * g.natAbs := hdiv ▸ Int.ediv_mul_le _ hpos.ne'
      _ = (c.relCap.natAbs : Int) * g.natAbs := by rw [Int.natAbs_of_nonneg hcap]
  exact_mod_cast hle

end

/-- Settles O39: the intermediate values are those of `gradientOf`, and its cases those of `adaptOne`. -/
theorem gradientStepOfOneGain : Obligations.GradientStepOfOneGain := by
  rintro c err g r lr sm gmin gmax a1 a2 a3 a4 sNew lim elMs rfl rfl rfl rfl rfl rfl
  exact ⟨adaptOne_of_outside, fun hlo hhi =>
    ⟨fun hover => adaptOne_of_overflow hlo hhi (Gradient.finite_eq_false_iff.mpr hover),
      fun hin => adaptOne_of_finite hlo hhi (Gradient.finite_iff.mpr hin)⟩⟩

/-- Settles O40: the bounds by `adaptOne_gain_bounds`; of the steps from inside the bounds, an ignored one moves nothing. -/
theorem gainStepIsBoundedAndCapped : Obligations.GainStepIsBoundedAndCapped := by
  intro c err g r lr sm gmin gmax elMs hle hcap hscale
  obtain ⟨hmin, hmax⟩ := adaptOne_gain_bounds (c := c) err elMs g r lr sm hle
  refine ⟨hmin, hmax, fun hlo hhi => ?capped⟩
  case capped =>
    cases hfinite : (gradientOf c err r lr sm elMs).finite c with
    | true => rw [adaptOne_of_finite hlo hhi hfinite]; exact capGain_sub_natAbs_le hcap hscale hlo hhi _
    | false => rw [adaptOne_of_overflow hlo hhi hfinite]; simp

/-! ### A TICK, step by step (44 R230) -/

/-- R230: the state of a TICK with a room temperature when its PID begins: its time recorded, the direction updated, and the
toggle run on the gate's answer. -/
def State.toggled (now : Time) (s : State) : State :=
  toggle (gateNow s) now
    { s with loop := { updateDirection s.cfg s.st.modeNow s.loop with lastTickAt := now } }

theorem updateDirection_lastTickAt (c : Config) (m : Mode) (l : Loop) (now : Time) :
    updateDirection c m { l with lastTickAt := now } = { updateDirection c m l with lastTickAt := now } := by
  cases m <;> simp only [updateDirection] <;> split <;> rfl

theorem updateDirection_target (c : Config) (m : Mode) (l : Loop) : (updateDirection c m l).target = l.target := by
  rcases updateDirection_cases c m l with e | ⟨heating, e⟩ <;> rw [e]
  rfl

/-- R232: the update written out. -/
theorem updateDirection_eq (c : Config) (m : Mode) (l : Loop) :
    updateDirection c m l =
      if m = .heat ∧ l.heating = false then recomputeAdjusted c { l with heating := true }
      else if m = .cool ∧ l.heating = true then recomputeAdjusted c { l with heating := false }
      else l := by
  cases m <;> cases h : l.heating <;> simp [updateDirection, h]

theorem updateDirection_heating (c : Config) (m : Mode) (l : Loop) :
    (updateDirection c m l).heating = (match m with | .heat => true | .cool => false | _ => l.heating) := by
  cases m <;> cases h : l.heating <;> simp [updateDirection, h]

theorem pidRuns_iff {m : Mode} {s : State} : pidRuns m s = true ↔ s.loop.active = true ∧ (m = .heat ∨ m = .cool) := by
  simp [pidRuns]

section
variable {s t : State} {now : Time}

@[simp] theorem toggled_cfg : (s.toggled now).cfg = s.cfg := toggle_cfg ..

/-- R230: direction and toggle, then the PID's step or the neutral output, then the write-back. -/
theorem exec_tick (hroom : s.st.haveRoomTemp = true) :
    exec (.tick now) s =
      .next (writeBack (if pidRuns s.st.modeNow (s.toggled now) then
          pidStep s.st.status.roomTemperature (timeStep s.cfg now s.loop.lastTickAt) now (s.toggled now)
        else pidNeutral (s.toggled now))) := by
  show execTick now s = _
  simp only [execTick, hroom, if_true, control, updateDirection_lastTickAt, updateDirection_active,
    updateDirection_target, State.toggled]

/-- R234, R239: in Active and in HEAT or COOL the PID runs. -/
theorem exec_tick_of_runs (hroom : s.st.haveRoomTemp = true) (hactive : (s.toggled now).loop.active = true)
    (hmode : s.st.modeNow = .heat ∨ s.st.modeNow = .cool) :
    exec (.tick now) s =
      .next (writeBack (pidStep s.st.status.roomTemperature (timeStep s.cfg now s.loop.lastTickAt) now
        (s.toggled now))) := by
  rw [exec_tick hroom, if_pos (pidRuns_iff.mpr ⟨hactive, hmode⟩)]

/-- R240: elsewhere its output is neutral. -/
theorem exec_tick_of_neutral (hroom : s.st.haveRoomTemp = true)
    (h : (s.toggled now).loop.active = false ∨ (s.st.modeNow ≠ .heat ∧ s.st.modeNow ≠ .cool)) :
    exec (.tick now) s = .next (writeBack (pidNeutral (s.toggled now))) := by
  have hidle : ¬ pidRuns s.st.modeNow (s.toggled now) = true := by
    rw [pidRuns_iff, not_and_or, not_or, Bool.not_eq_true]
    exact h
  rw [exec_tick hroom, if_neg hidle]

/-! ### What a TICK leaves of the loop -/

/-- What neither the toggle nor the PID writes of a loop. -/
structure Loop.SameCourse (l l' : Loop) : Prop where
  heating : l'.heating = l.heating
  target : l'.target = l.target
  adjustedMin : l'.adjustedMin = l.adjustedMin
  adjustedMax : l'.adjustedMax = l.adjustedMax
  lastTickAt : l'.lastTickAt = l.lastTickAt

theorem disableEvent_lastTickAt (c : Config) (l : Loop) : (disableEvent c l).lastTickAt = l.lastTickAt := by
  simp only [disableEvent]
  split <;> rfl

theorem Loop.Toggled.sameCourse {c : Config} {l l' : Loop} (h : Loop.Toggled c now l l') : l.SameCourse l' := by
  cases h with
  | kept | on => exact ⟨rfl, rfl, rfl, rfl, rfl⟩
  | off =>
    obtain ⟨hmin, hmax, hheating, htarget⟩ := disableEvent_range c { l with active := false }
    exact ⟨hheating, htarget, hmin, hmax, disableEvent_lastTickAt c _⟩

theorem Loop.Controlled.sameCourse {c : Config} {l l' : Loop} (h : Loop.Controlled c now l l') : l.SameCourse l' := by
  cases h <;> exact ⟨rfl, rfl, rfl, rfl, rfl⟩

/-- The PID turns nothing on or off. -/
theorem Loop.Controlled.active_eq {c : Config} {l l' : Loop} (h : Loop.Controlled c now l l') : l'.active = l.active := by
  cases h <;> rfl

/-- 43 R215, 44 R230: the toggle of a TICK works on the loop that the direction leaves. -/
theorem toggled_loop (now : Time) (s : State) :
    Loop.Toggled s.cfg now { updateDirection s.cfg s.st.modeNow s.loop with lastTickAt := now } (s.toggled now).loop := by
  have h := toggle_toggled
    (s := { s with loop := { updateDirection s.cfg s.st.modeNow s.loop with lastTickAt := now } })
    s.st.modeNow s.st.status.roomTemperature s.loop.target now
  rwa [updateDirection_active] at h

/-- R230: the PID of a TICK works on the loop that direction and toggle leave. -/
theorem tick_controlled (hroom : s.st.haveRoomTemp = true) (h : exec (.tick now) s = .next t) :
    Loop.Controlled s.cfg now (s.toggled now).loop t.loop := by
  rw [exec_tick hroom] at h
  cases h
  rw [← toggled_cfg (now := now)]
  split
  case isTrue hruns => exact pidStep_controlled _ _ now (pidRuns_iff.mp hruns).1
  case isFalse => exact .neutral _

/-- R232: after a TICK the direction is the one that its mode gives. -/
theorem tick_heating (hroom : s.st.haveRoomTemp = true) (h : exec (.tick now) s = .next t) :
    t.loop.heating = (updateDirection s.cfg s.st.modeNow s.loop).heating :=
  (tick_controlled hroom h).sameCourse.heating.trans (toggled_loop now s).sameCourse.heating

theorem adapt_corrected (now : Time) (s : State) : (adapt now s).loop.corrected = s.loop.corrected := by
  rcases adapt_loop_cases now s with e | e | e <;> rw [e]
  rfl

/-- R239, R250: adaptation comes after the projection and leaves its result. -/
theorem pidStep_corrected (cur : Int) (dtMs : Nat) (now : Time) (s : State) :
    (pidStep cur dtMs now s).loop.corrected = (s.loop.evaluated s.cfg cur dtMs).corrected := by
  simp only [pidStep]
  split
  · exact adapt_corrected now _
  · rfl

/-- R239: the projection lies in the adjusted range, where that is in order. -/
theorem Loop.evaluated_corrected_bounds {c : Config} {l : Loop} (hle : l.adjustedMin ≤ l.adjustedMax) (cur : Int)
    (dtMs : Nat) :
    l.adjustedMin ≤ (l.evaluated c cur dtMs).corrected ∧ (l.evaluated c cur dtMs).corrected ≤ l.adjustedMax :=
  clamp_bounds hle _

/-- R41 (g): the adjusted range of a safe loop is in order. -/
theorem loopInv_ordered (hc : configWf s.cfg = true) (hs : loopInv s) : s.loop.adjustedMin ≤ s.loop.adjustedMax := by
  have hrange := (Loop.inv_iff.mpr hs).range_eq
  have hordered := adjustedRange_ordered hc s.loop.heating s.loop.target
  rwa [← hrange] at hordered

/-- 43 R215: of the Store a toggle writes at most its time and `want.power`. -/
theorem toggle_st (g : GateAnswer) (now : Time) (s : State) :
    (toggle g now s).st =
      { s.st with
        lastToggleAt := (toggle g now s).st.lastToggleAt
        want := { s.st.want with power := (toggle g now s).st.want.power } } := by
  rcases toggle_cases g now s with ⟨-, e⟩ | ⟨-, -, e⟩ | ⟨-, -, e⟩ | ⟨-, -, e⟩ <;> rw [e] <;> rfl

/-- R238: of the Store a TICK writes the corrected setpoint, and what the toggle wrote stays. -/
theorem tick_st (hroom : s.st.haveRoomTemp = true) (h : exec (.tick now) s = .next t) :
    t.st = { s.st with
      lastToggleAt := t.st.lastToggleAt
      want := { s.st.want with power := t.st.want.power, temperature := some t.loop.corrected } } := by
  have hst : t.st =
      { (s.toggled now).st with want := { (s.toggled now).st.want with temperature := some t.loop.corrected } } := by
    rw [exec_tick hroom] at h
    cases h
    split
    · simp only [writeBack, pidStep_st]
    · rfl
  have htoggle : (s.toggled now).st = _ := toggle_st ..
  rw [hst, htoggle]

/-- What a TICK with a room temperature leaves alone of the rest of the state. -/
theorem tick_frame (hroom : s.st.haveRoomTemp = true) (h : exec (.tick now) s = .next t) :
    t.cfg = s.cfg ∧ t.newCfg = s.newCfg ∧ t.dec = s.dec ∧ t.sch = s.sch ∧ t.timers = s.timers ∧ t.port = s.port ∧
    t.freeCtr = s.freeCtr := by
  cases h
  simp [hroom]

end

/-- Settles O27: the branch of `execTick` without a room temperature. -/
theorem tickBeforeRoomTemperature : Obligations.TickBeforeRoomTemperature := by
  intro s now hnone
  show execTick now s = _
  rw [execTick, if_neg (by simp [hnone])]

/-- Settles O28: `s.toggled now` is the state `m` of the statement, and the PID's step or its neutral output goes on from there;
the frame is `tick_st` and `tick_frame`. -/
theorem tickWritesTheSetpointBack : Obligations.TickWritesTheSetpointBack := by
  intro s now hroom
  refine ⟨?frame, ?pipeline⟩
  case frame =>
    have h := exec_tick (now := now) hroom
    have hcontrolled := (tick_controlled hroom h).sameCourse
    have htoggled := (toggled_loop now s).sameCourse
    exact ⟨_, h, hcontrolled.lastTickAt.trans htoggled.lastTickAt,
      (hcontrolled.target.trans htoggled.target).trans (updateDirection_target ..), tick_st hroom h, tick_frame hroom h⟩
  case pipeline =>
    rintro l e m a rfl hm rfl rfl
    rw [← updateDirection_eq] at hm
    obtain rfl : m = s.toggled now := hm
    refine ⟨fun hactive hmode => ?runs, fun hidle => exec_tick_of_neutral hroom hidle⟩
    case runs =>
      rw [exec_tick_of_runs hroom hactive hmode, writeBack, pidStep_corrected, pidStep_st, pidStep, toggled_cfg]
      cases s.cfg.pidVariant <;> rfl

/-- Settles O29: the accessors field by field; after a TICK the direction is what `update_direction` made of it
(`tick_heating`). -/
theorem directionFollowsTheMode : Obligations.DirectionFollowsTheMode := by
  refine ⟨fun st => ?accessors, fun s t now hroom h => ?direction⟩
  case accessors =>
    refine ⟨?_, ?_, ?_, ?_, ?_, ?_, decide_eq_true_iff, rfl⟩
    all_goals split
    all_goals simp_all only [Store.powerNow, Store.modeNow, Store.temperatureNow, Store.fanNow, Store.vaneNow,
      Store.wideVaneNow, Option.getD_some, Option.getD_none]
  case direction =>
    rw [tick_heating hroom h, updateDirection_heating]
    cases s.st.modeNow <;> simp

/-- Settles O35: no other operation writes the loop (`exec_loop_cases`); a TICK projects into the range, which is in order
after it (`loopInv_ordered`), or takes the target. -/
theorem correctedSetpointIsBounded : Obligations.CorrectedSetpointIsBounded := by
  refine ⟨fun i s t htick hset hreset h => ?others, fun s t now hc hs hroom h => ?tick⟩
  case others =>
    rcases exec_loop_cases h with ⟨now, hi⟩ | ⟨arg, now, hi⟩ | hi | ⟨-, hloop⟩
    · exact absurd hi (htick now)
    · exact absurd hi (hset arg now)
    · exact absurd hi hreset
    · simp [hloop]
  case tick =>
    have hcontrolled := tick_controlled hroom h
    rw [hcontrolled.active_eq]
    refine ⟨fun hactive hmode => ?runs, fun hidle => ?neutral⟩
    case runs =>
      have hordered : t.loop.adjustedMin ≤ t.loop.adjustedMax :=
        loopInv_ordered ((tick_frame hroom h).1 ▸ hc) (exec_keeps_loopInv hc hs h)
      rw [hcontrolled.sameCourse.adjustedMin, hcontrolled.sameCourse.adjustedMax] at hordered ⊢
      rw [exec_tick_of_runs hroom hactive hmode] at h
      cases h
      show _ ≤ (pidStep ..).loop.corrected ∧ (pidStep ..).loop.corrected ≤ _
      rw [pidStep_corrected]
      exact Loop.evaluated_corrected_bounds hordered _ _
    case neutral =>
      rw [exec_tick_of_neutral hroom hidle] at h
      cases h
      rfl

/-! ### The FixedDiscrete variant (44 R242, R256) -/

/-- R242, R256: the part of a loop that only adaptation writes. -/
def Loop.adaptedPart (l : Loop) : Int × Int × Int × Int × Int := (l.ki, l.kd, l.sKp, l.sKi, l.sKd)

/-- R244: the part that a disable event writes too. -/
def Loop.shrunkPart (l : Loop) : Int × Int := (l.kp, l.integralMax)

theorem updateDirection_parts (c : Config) (m : Mode) (l : Loop) :
    (updateDirection c m l).adaptedPart = l.adaptedPart ∧ (updateDirection c m l).shrunkPart = l.shrunkPart := by
  rcases updateDirection_cases c m l with e | ⟨heating, e⟩ <;> rw [e] <;> exact ⟨rfl, rfl⟩

theorem disableEvent_adaptedPart (c : Config) (l : Loop) : (disableEvent c l).adaptedPart = l.adaptedPart := by
  simp only [disableEvent]
  split <;> rfl

section
variable {c : Config} {l l' : Loop} {now : Time}

theorem Loop.Toggled.adaptedPart_eq (h : Loop.Toggled c now l l') : l'.adaptedPart = l.adaptedPart := by
  cases h with
  | kept | on => rfl
  | off => exact disableEvent_adaptedPart c { l with active := false }

/-- R244: only a turn-off is a disable event. -/
theorem Loop.Toggled.shrunkPart_eq (h : Loop.Toggled c now l l') (hon : l'.active = l.active ∨ l'.active = true) :
    l'.shrunkPart = l.shrunkPart := by
  cases h with
  | kept | on => rfl
  | off _ _ hactive =>
    simp [onFlip, hactive] at hon

end

section
variable {s t : State} {now : Time}

/-- R256: in the fixed variant the PID of a TICK evaluates or is neutral, and neither writes a gain. -/
theorem tick_parts_of_fixedDiscrete (hfixed : s.cfg.pidVariant = .fixedDiscrete) (hroom : s.st.haveRoomTemp = true)
    (h : exec (.tick now) s = .next t) :
    t.loop.adaptedPart = (s.toggled now).loop.adaptedPart ∧ t.loop.shrunkPart = (s.toggled now).loop.shrunkPart := by
  rw [exec_tick hroom] at h
  cases h
  split
  · simp only [pidStep, toggled_cfg, hfixed]
    exact ⟨rfl, rfl⟩
  · exact ⟨rfl, rfl⟩

theorem tick_of_fixedDiscrete (hfixed : s.cfg.pidVariant = .fixedDiscrete) (h : exec (.tick now) s = .next t) :
    t.loop.adaptedPart = s.loop.adaptedPart ∧
    (t.loop.active = s.loop.active ∨ t.loop.active = true → t.loop.shrunkPart = s.loop.shrunkPart) := by
  cases hroom : s.st.haveRoomTemp with
  | false =>
    rw [tickBeforeRoomTemperature s now hroom] at h
    cases h
    exact ⟨rfl, fun _ => rfl⟩
  | true =>
    have htoggled := toggled_loop now s
    obtain ⟨hadapted, hshrunk⟩ := tick_parts_of_fixedDiscrete hfixed hroom h
    obtain ⟨hadapted', hshrunk'⟩ := updateDirection_parts s.cfg s.st.modeNow s.loop
    rw [hadapted, hshrunk, (tick_controlled hroom h).active_eq, ← hadapted', ← hshrunk',
      ← updateDirection_active s.cfg s.st.modeNow s.loop]
    exact ⟨htoggled.adaptedPart_eq, htoggled.shrunkPart_eq⟩

end

/-- Settles O41: the direction and the PID write no gain (`tick_parts_of_fixedDiscrete`), and of the toggle only a turn-off
does. -/
theorem fixedDiscreteNeverAdapts : Obligations.FixedDiscreteNeverAdapts := by
  intro s t now hfixed h
  simpa only [Loop.adaptedPart, Loop.shrunkPart, Prod.mk.injEq, and_assoc] using tick_of_fixedDiscrete hfixed h

end Sys2Proof.Machine
end

section
/-! PROOFS. 60_exceptions.md R283, R291, R298: what a step runs (StepRunsThePresentedOperation), and that no run from a safe
state stops (SafeRunsNeverStop), from progress (a safe state has a next one) and preservation (the next one is safe). -/

namespace Sys2Proof.Machine

/-! ### The step (60 R291, R298, 00 R8) -/

/-- 30 R95: no event is a RESET, which only the pin asks for. -/
theorem decodeEvent_ne_reset (w : BitVec 68) : decodeEvent w ≠ .reset := by
  unfold decodeEvent
  dsimp only
  split <;> exact Instr.noConfusion

section
variable {s : State} {rest : List Input}

theorem step_resetPin (hp : s.port = .resetPin :: rest) : step s = exec .reset { s with port := rest } := by
  simp [step, fetch, mayRun, hp, decodeInput]

theorem step_event_of_illFormed {w : BitVec 68} (hp : s.port = .event w :: rest) (hc : configWf s.cfg = false) :
    step s = .refused .illFormedConfig := by
  simp [step, fetch, mayRun, hp, hc, decodeInput, decodeEvent_ne_reset]

end

/-- Settles O5, clause by clause from what the step does with each kind of input. -/
theorem stepRunsThePresentedOperation : Obligations.StepRunsThePresentedOperation :=
  ⟨fun _ => step_idle, fun _ _ _ => step_present, fun _ _ => step_resetPin, fun _ _ _ => step_event_of_illFormed⟩

/-! ### Progress: no operation stops (60 R283) -/

section
variable {s : State}

/-- 10 R41 (b), 40 R118: within a frame there is room in the buffer for one more byte. -/
theorem decoderInv_count_lt (hc : configWf s.cfg = true) (hd : decoderInv s) (hf : s.dec.fsm ≠ .seeking) :
    s.dec.count < s.cfg.bufCap := by
  have hcap := configWf_bufCap hc
  obtain ⟨-, hheader, hbody, -⟩ := hd
  cases hfsm : s.dec.fsm with
  | seeking => exact absurd hfsm hf
  | readingHeader =>
    obtain ⟨-, hcount⟩ := hheader hfsm
    omega
  | readingBody =>
    obtain ⟨-, hcount, hlen⟩ := hbody hfsm
    omega

/-- Where the byte has its place, no part of RX_BYTE stops: a frame that it completes is dispatched whole. -/
theorem rxByte_progress (b : Byte) (now : Time) (hc : configWf s.cfg = true) (hd : decoderInv s) :
    ∃ t, exec (.rxByte b now) s = .next t := by
  cases hf : s.dec.fsm with
  | seeking => exact ⟨_, rxByte_seeking hf⟩
  | readingHeader => exact ⟨_, rxByte_header hf (decoderInv_count_lt hc hd (by simp [hf]))⟩
  | readingBody =>
    rw [rxByte_body hf (decoderInv_count_lt hc hd (by simp [hf]))]
    split
    · obtain ⟨t, ht, -⟩ := complete_next now _
      exact ⟨t, ht⟩
    · split <;> exact ⟨_, rfl⟩

/-- Only RX_BYTE can fault and only RESET can be refused; in a safe state neither is. -/
theorem exec_progress (i : Instr) (hs : safe s) : ∃ t, exec i s = .next t := by
  obtain ⟨hc, hnew, hd, -⟩ := hs
  cases i with
  | rxByte b now => exact rxByte_progress b now hc hd
  | reset =>
    rcases execReset_cases s with ⟨-, h⟩ | ⟨hill, -⟩
    · exact ⟨_, h⟩
    · exact absurd (resetCfg_wf hc hnew) (by simp [hill])
  | _ => exact ⟨_, rfl⟩

/-! ### Preservation: the next state is safe -/

/-- 20 R72: the configuration stays as it is, or is the well-formed one that the RESET brings into force. -/
theorem exec_keeps_configWf {i : Instr} {t : State} (hc : configWf s.cfg = true) (hnew : replacementsWf s.newCfg)
    (h : exec i s = .next t) : configWf t.cfg = true ∧ replacementsWf t.newCfg := by
  by_cases hreset : i = .reset
  · subst hreset
    obtain ⟨hwf, rfl⟩ := exec_reset_eq_next h
    exact ⟨hwf, replacementsWf_tail hnew⟩
  · have hsame := exec_sameConfig hreset h
    rw [hsame.cfg, hsame.newCfg]
    exact ⟨hc, hnew⟩

theorem exec_keeps_safe {i : Instr} {t : State} (hs : safe s) (h : exec i s = .next t) : safe t := by
  obtain ⟨hc, hnew, hd, hr, hl, hfx⟩ := hs
  have hloopFx : loopInFx t := (exec_keepsFx hc (Loop.inFx_iff.mpr ⟨hfx, hl.1⟩) h).1
  obtain ⟨hc', hnew'⟩ := exec_keeps_configWf hc hnew h
  exact ⟨hc', hnew', exec_keeps_decoderInv hc hd h, exec_keeps_requestInv hc hr h, exec_keeps_loopInv hc hl h,
    (Loop.inFx_iff.mp hloopFx).1⟩

/-! ### Runs -/

/-- 60 R283 for one step: idle, or the operation presented. -/
theorem step_safe (hs : safe s) : ∃ t, step s = .next t ∧ safe t := by
  cases hp : s.port with
  | nil => exact ⟨s, step_idle hp, hs⟩
  | cons x rest =>
    have hs' : safe { s with port := rest } := hs
    obtain ⟨t, ht⟩ := exec_progress (decodeInput x) hs'
    exact ⟨t, (step_present hp hs.1).trans ht, exec_keeps_safe hs' ht⟩

end

theorem run_safe (k : Nat) {s : State} (hs : safe s) :
    ∃ t : State, Host.Core.run Sys2Proof.core k s = .next t ∧ safe t := by
  induction k generalizing s with
  | zero => exact ⟨s, rfl, hs⟩
  | succ k ih =>
    obtain ⟨u, hstep, hu⟩ := step_safe hs
    rw [core_run_succ k hstep]
    exact ih hu

/-- 70 R300, R302: safe after a RESET, whatever inputs and well-formed replacements the platform has ready. -/
theorem safe_resetOf_with {c : Config} (hc : configWf c = true) (inputs : List Input) {later : List (Option Config)}
    (hlater : replacementsWf later) : safe { State.resetOf c with port := inputs, newCfg := later } := by
  obtain ⟨-, -, hinv⟩ := safe_resetOf hc
  exact ⟨hc, hlater, hinv⟩

/-- Settles O60, by induction on the length of the run: each step has a next state, and a safe one (`step_safe`). -/
theorem safeRunsNeverStop : Obligations.SafeRunsNeverStop :=
  ⟨fun k _ hs => run_safe k hs, fun k _ inputs _ hc hlater => run_safe k (safe_resetOf_with hc inputs hlater)⟩

end Sys2Proof.Machine
end

section
/-! PROOFS. 70_reset_and_hazards.md R300, R302, R303: what RESET restores (ResetRestoresEveryPiece) and what it leaves to the
platform (ResetLeavesThePlatformAlone), and a TIMEOUT that finds no pending timer (TimeoutWithNoPendingTimer). -/

namespace Sys2Proof.Machine

/-! ### RESET (70 R300, R302) -/

section
variable {s : State}

theorem exec_reset_of_wf (hc : configWf s.resetCfg = true) : exec .reset s = .next (afterReset s) := by
  rcases execReset_cases s with ⟨-, h⟩ | ⟨hill, -⟩
  · exact h
  · simp [hc] at hill

theorem exec_reset_of_illFormed (hc : configWf s.resetCfg = false) : exec .reset s = .refused .illFormedConfig := by
  rcases execReset_cases s with ⟨hwf, -⟩ | ⟨-, h⟩
  · simp [hc] at hwf
  · exact h

end

@[simp] theorem afterReset_dec (s : State) : (afterReset s).dec = decoderReset := rfl
@[simp] theorem afterReset_st (s : State) : (afterReset s).st = storeReset := rfl
@[simp] theorem afterReset_timers (s : State) : (afterReset s).timers = [] := rfl
@[simp] theorem afterReset_loop (s : State) : (afterReset s).loop = loopReset s.resetCfg := rfl

/-- 10 R40: one entry at its reset value for each request of the configuration that comes into force. -/
@[simp] theorem afterReset_sch (s : State) :
    (afterReset s).sch = List.replicate s.resetCfg.req.length reqReset := by
  rw [← List.map_const']
  rfl

/-- 20 R60, log 13: a space with no cell listed reads 0x00 everywhere. -/
theorem memRead_nil (a : Nat) : memRead [] a = 0x00#8 := rfl

/-- Settles O47: RESET answers `afterReset`, whose pieces are the reset values of 10 R40; the loop's target is the middle of
the output range, and its adjusted range is that of heating towards it. -/
theorem resetRestoresEveryPiece : Obligations.ResetRestoresEveryPiece := by
  rintro s c mid rfl hc rfl
  exact ⟨afterReset s, exec_reset_of_wf hc, ⟨[], List.append_nil _⟩, afterReset_dec s, memRead_nil, afterReset_st s, memRead_nil,
    memRead_nil, afterReset_sch s, afterReset_timers s, afterReset_loop s⟩

/-- Settles O48: both answers of RESET (`execReset_cases`), and of `afterReset` the fields that are no piece of the block's
state. -/
theorem resetLeavesThePlatformAlone : Obligations.ResetLeavesThePlatformAlone := by
  refine ⟨fun s hill => exec_reset_of_illFormed hill, ?_⟩
  rintro s c rfl hc
  exact ⟨afterReset s, exec_reset_of_wf hc, afterReset_cfg s, afterReset_newCfg s, afterReset_out s, afterReset_port s,
    afterReset_freeCtr s⟩

/-! ### TIMEOUT with no pending timer (70 R303) -/

/-- 42 R186, log 7: with no timer of the code pending there is none to remove. -/
theorem dropTimer_of_not_pending {s : State} {code : Byte} (h : ∀ x ∈ s.timers, x.code ≠ code) : s.dropTimer code = s := by
  have herase : s.timers.eraseP (fun t => decide (t.code = code)) = s.timers := List.eraseP_of_forall_not (by simpa using h)
  rw [State.dropTimer, herase]

/-- 70 R303, log 7: the effect is that of a TIMEOUT whose one timer was pending, less that timer's removal. -/
theorem exec_timeout_of_not_pending {s : State} {code : Byte} (now : Time) (h : ∀ x ∈ s.timers, x.code ≠ code) {tm : Timer}
    (hcode : tm.code = code) :
    exec (.timeout code now) s = exec (.timeout code now) { s with timers := tm :: s.timers } := by
  have hdrop : State.dropTimer { s with timers := tm :: s.timers } code = s :=
    dropTimer_eq (pre := []) rfl hcode (by simp)
  rw [exec_timeout_of_dropTimer (dropTimer_of_not_pending h), exec_timeout_of_dropTimer hdrop]

/-- Settles O26: what O25 says of the state with one timer of the code pending, by `exec_timeout_of_not_pending`. -/
theorem timeoutWithNoPendingTimer : Obligations.TimeoutWithNoPendingTimer := by
  intro s code now hnone
  have hpending := exec_timeout_of_not_pending now hnone (tm := ⟨code, now, 0#32⟩) rfl
  rw [hpending]
  exact timeoutOfAPendingTimer { s with timers := ⟨code, now, 0#32⟩ :: s.timers } code now [] s.timers ⟨code, now, 0#32⟩
    rfl rfl (by simp)

end Sys2Proof.Machine
end
